-- ==== Sys2Proof/Word.lean ====
section
/-! DEFINITION. The widths of the GIF stream: bytes, 64-bit register values and 128-bit stream units (00_scope R8, 20_memory R80, R81). -/

namespace Sys2Proof

/-- One byte of the stream or of local memory. -/
abbrev Byte := BitVec 8

/-- A register payload of a REGLIST value or an A+D slot (00_scope R8). -/
abbrev Word64 := BitVec 64

/-- A stream unit: 16 bytes of a feed call (20_memory R84). -/
abbrev Qword := BitVec 128

end Sys2Proof
end

