-- ==== Sys2Proof/Config.lean ====
section
/-! DEFINITION. What the spec leaves to the implementation (00_scope R7): the policies with their defaults, and the OPEN parameters
and drawn values as constants without a body. -/

namespace Sys2Proof

/-- `PRIM7_POLICY`: what primitive type 7 is (00_scope R7, 42_vertex_kick R300). -/
inductive Prim7Policy where
  | asSprite
  | discard
  deriving DecidableEq, Repr

/-- `RESERVED_DESC_POLICY`: what PACKED descriptor 0xB does (00_scope R7, 40_gif_decoder R191). -/
inductive ReservedDescPolicy where
  | nop
  | refuse
  deriving DecidableEq, Repr

/-- `DEGENERATE_TEST` (00_scope R7, 42_vertex_kick R307). -/
inductive DegenerateTest where
  | pairEqual
  | pairEqualOrZeroExtent
  deriving DecidableEq, Repr

/-- A parameter of 00_scope R7 that is a function with a default: the spec's formula, or function number n, of which nothing is
known. DESIGN CHOICE (log 17). -/
inductive Formula where
  | standard
  | other (n : Nat)
  deriving DecidableEq, Repr

/-- The configuration of 00_scope R7. `Reconfigure` sets the first three (70 R432); nothing changes the
others. -/
structure Cfg where
  /-- `AUTO_FLUSH` -/
  autoFlush : Bool
  /-- `ALT_UV_ROUNDING` -/
  altUvRounding : Bool
  /-- `KICK_ENABLED` -/
  kickEnabled : Bool
  /-- `EOP_TERMINATES(p)`, bit p for path p (40_gif_decoder R173) -/
  eopTerminates : BitVec 4
  prim7 : Prim7Policy
  reservedDesc : ReservedDescPolicy
  degenerate : DegenerateTest
  /-- `SCISSOR_BOX` (42_vertex_kick R306) -/
  scissorBox : Formula
  /-- `HAZARD` (42_vertex_kick R311) -/
  hazard : Formula
  /-- `MOVE_CONVERT` (44_transfer R376) -/
  moveConvert : Formula
  /-- `VBUF_MAX`; none is unbounded (42_vertex_kick R310) -/
  vbufMax : Option Nat
  /-- `IBUF_MAX`; none is unbounded (42_vertex_kick R310) -/
  ibufMax : Option Nat
  /-- `STAGING_CAP` in bytes (44_transfer R365) -/
  stagingCap : Nat
  deriving DecidableEq, Repr

/-- Where a pixel lives: bits `[lo+n-1 : lo]` of the little-endian word of `bytes` bytes at byte address `addr` (20_memory R86).
The width n is the storage width of the format (R88). -/
structure PixelLoc where
  addr : Nat
  lo : Nat
  bytes : Nat
  deriving DecidableEq, Repr

/-! ## What the parameters are functions of -/

namespace Machine

/-- One drawing context (10_state R37), each register in its stored form (R36). -/
structure Ctx where
  xyoffset : Word64
  tex0 : Word64
  tex1 : Word64
  clamp : Word64
  miptbp1 : Word64
  miptbp2 : Word64
  scissor : Word64
  alpha : Word64
  test : Word64
  fba : Word64
  frame : Word64
  zbuf : Word64
  deriving DecidableEq, Repr

/-- An inclusive box of positions in 1/16 pixel (42_vertex_kick R306): bx0, bx1, by0, by1. -/
structure Box where
  x0 : Int
  x1 : Int
  y0 : Int
  y1 : Int
  deriving DecidableEq, Repr, Inhabited

end Machine

namespace Config

/-- `LOCAL_MEM_BYTES` (00_scope R7, 10_state R49). -/
def localMemBytes : Nat := 4194304

/-- The defaults of 00_scope R7. DESIGN CHOICE (log 1) for the three Booleans, to which the spec gives no initial value. -/
def defaults : Cfg :=
  { autoFlush := false, altUvRounding := false, kickEnabled := true, eopTerminates := 0b0001#4,
    prim7 := .asSprite, reservedDesc := .nop, degenerate := .pairEqual,
    scissorBox := .standard, hazard := .standard, moveConvert := .standard,
    vbufMax := none, ibufMax := none, stagingCap := 4194304 }

/-- `UV_ROUND`, OPEN (00_scope R7, 92 D34): a free function of the operands. DESIGN CHOICE (log 8). -/
opaque uvRound : BitVec 14 → BitVec 14 → BitVec 14 × BitVec 14

/-- The `draw mem` of power-on (10_state R53) and of a Draw (43_flush_draw R352): byte `a` of memory image number `epoch`.
DESIGN CHOICE (log 5). -/
opaque freeMem : Nat → Nat → Byte

/-- The `draw d` of a surplus ReadFIFO byte (44_transfer R378). DESIGN CHOICE (log 7). -/
opaque freeReadByte : Nat → Byte

/-- The `draw ok` of a renderer step that no reply answers (43_flush_draw R352). DESIGN CHOICE (log 6). -/
opaque rendererOk : Nat → Bool

/-- `SCISSOR_BOX` of a context, for a parameter other than the default (42_vertex_kick R306). DESIGN CHOICE (log 17). -/
opaque otherScissorBox : Nat → Machine.Ctx → Machine.Box

/-- `HAZARD` of a context and the attributes in effect, for a parameter other than the default (42_vertex_kick R311). DESIGN CHOICE
(log 17). -/
opaque otherHazard : Nat → Machine.Ctx → BitVec 8 → Bool

/-- `MOVE_CONVERT` of the two formats and the pixel's value, for a parameter other than the default (44_transfer R376). DESIGN CHOICE
(log 17). -/
opaque otherMoveConvert : Nat → BitVec 6 → BitVec 6 → BitVec 32 → BitVec 32

/-- The layout of a format whose `PIXEL_LOC` is OPEN, by format code, base pointer and buffer width: it takes (x, y) to the pixel's byte
address and lowest bit. A permutation, so that the law of 20_memory R86 holds: different pixels have different places. DESIGN CHOICE
(log 9). -/
opaque openPlace : BitVec 6 → Nat → Nat → Equiv.Perm (Nat × Nat)

/-- By how many bytes the word of such a pixel is longer than its bits need (20_memory R88, "an OPEN word size"), by the same
operands, x and y. DESIGN CHOICE (log 9). -/
opaque openWordSlack : BitVec 6 → Nat → Nat → Nat → Nat → Nat

end Config
end Sys2Proof
end

