-- ==== Sys2Proof/Syntax.lean ====
section
/-! DEFINITION. The instructions: one constructor for each row of spec/opcode_table.json (30_encoding R155). An operand holds the
named bits of the unit; the bits the block ignores are no operand, but for a tag's, which is stored whole (10_state R31). -/

namespace Sys2Proof

/-- The fields of a GIFTag but for FLG, which the constructor says (30_encoding R110). `ignored` is bits 45:16: no rule reads them,
and `path[p].tag` keeps them. -/
structure TagFields where
  nloop : BitVec 15
  eop : Bool
  ignored : BitVec 30
  pre : Bool
  prim : BitVec 11
  nreg : BitVec 4
  regs : BitVec 64
  deriving DecidableEq, Repr

/-- A unit of the IMAGE or IMAGE2 format: its tag, or one qword of the data the tag governs (30_encoding R117, R118).
DESIGN CHOICE (log 20). -/
inductive ImageUnit where
  | tag (t : TagFields)
  | data (q : Qword)
  deriving DecidableEq, Repr

/-- The stream units that select behaviour, by the rows of the opcode table. -/
inductive Instr where
  /-- GIFTAG.PACKED: FLG = 0 (R175, tag start R171) -/
  | giftagPacked (t : TagFields)
  /-- GIFTAG.REGLIST: FLG = 1 (R176, tag start R171) -/
  | giftagReglist (t : TagFields)
  /-- GIFTAG.IMAGE: FLG = 2 (R177, tag start R171) -/
  | giftagImage (u : ImageUnit)
  /-- GIFTAG.IMAGE2: FLG = 3 (R178, tag start R171) -/
  | giftagImage2 (u : ImageUnit)
  /-- PACKED.PRIM: PACKED descriptor 0x0 (R180) -/
  | packedPrim (v : BitVec 11)
  /-- PACKED.RGBA: PACKED descriptor 0x1 (R181) -/
  | packedRgba (r g b a : BitVec 8)
  /-- PACKED.STQ: PACKED descriptor 0x2 (R182) -/
  | packedStq (s t q : BitVec 32)
  /-- PACKED.UV: PACKED descriptor 0x3 (R183) -/
  | packedUv (u v : BitVec 14)
  /-- PACKED.XYZF2: PACKED descriptor 0x4 (R184) -/
  | packedXyzf2 (x y : BitVec 16) (z : BitVec 24) (f : BitVec 8) (adc : Bool)
  /-- PACKED.XYZ2: PACKED descriptor 0x5 (R185) -/
  | packedXyz2 (x y : BitVec 16) (z : BitVec 32) (adc : Bool)
  /-- PACKED.TEX0_1: PACKED descriptor 0x6 (R186) -/
  | packedTex0_1 (data : Word64)
  /-- PACKED.TEX0_2: PACKED descriptor 0x7 (R187) -/
  | packedTex0_2 (data : Word64)
  /-- PACKED.CLAMP_1: PACKED descriptor 0x8 (R188) -/
  | packedClamp_1 (data : Word64)
  /-- PACKED.CLAMP_2: PACKED descriptor 0x9 (R189) -/
  | packedClamp_2 (data : Word64)
  /-- PACKED.FOG: PACKED descriptor 0xa (R190) -/
  | packedFog (f : BitVec 8)
  /-- PACKED.RESERVED_B: PACKED descriptor 0xb (R191) -/
  | packedReservedB
  /-- PACKED.XYZF3: PACKED descriptor 0xc (R192) -/
  | packedXyzf3 (x y : BitVec 16) (z : BitVec 24) (f : BitVec 8)
  /-- PACKED.XYZ3: PACKED descriptor 0xd (R193) -/
  | packedXyz3 (x y : BitVec 16) (z : BitVec 32)
  /-- PACKED.A+D: PACKED descriptor 0xe (R194) -/
  | packedAd (addr : BitVec 7) (data : Word64)
  /-- PACKED.NOP: PACKED descriptor 0xf (R195) -/
  | packedNop
  /-- REGLIST.PRIM: REGLIST descriptor 0x0 (R196) -/
  | reglistPrim (v : Word64)
  /-- REGLIST.RGBAQ: REGLIST descriptor 0x1 (R196) -/
  | reglistRgbaq (v : Word64)
  /-- REGLIST.ST: REGLIST descriptor 0x2 (R196) -/
  | reglistSt (v : Word64)
  /-- REGLIST.UV: REGLIST descriptor 0x3 (R196) -/
  | reglistUv (v : Word64)
  /-- REGLIST.XYZF2: REGLIST descriptor 0x4 (R196) -/
  | reglistXyzf2 (v : Word64)
  /-- REGLIST.XYZ2: REGLIST descriptor 0x5 (R196) -/
  | reglistXyz2 (v : Word64)
  /-- REGLIST.TEX0_1: REGLIST descriptor 0x6 (R196) -/
  | reglistTex0_1 (v : Word64)
  /-- REGLIST.TEX0_2: REGLIST descriptor 0x7 (R196) -/
  | reglistTex0_2 (v : Word64)
  /-- REGLIST.CLAMP_1: REGLIST descriptor 0x8 (R196) -/
  | reglistClamp_1 (v : Word64)
  /-- REGLIST.CLAMP_2: REGLIST descriptor 0x9 (R196) -/
  | reglistClamp_2 (v : Word64)
  /-- REGLIST.FOG: REGLIST descriptor 0xa (R196) -/
  | reglistFog (v : Word64)
  /-- REGLIST.0x0B: REGLIST descriptor 0xb (R196) -/
  | reglistUnassigned0B (v : Word64)
  /-- REGLIST.XYZF3: REGLIST descriptor 0xc (R196) -/
  | reglistXyzf3 (v : Word64)
  /-- REGLIST.XYZ3: REGLIST descriptor 0xd (R196) -/
  | reglistXyz3 (v : Word64)
  /-- REGLIST.A+D: REGLIST descriptor 0xe (R197) -/
  | reglistAd (v : Word64)
  /-- REGLIST.NOP: REGLIST descriptor 0xf (R197) -/
  | reglistNop (v : Word64)
  /-- AD.PRIM: register address 0x00 (R230) -/
  | adPrim (v : Word64)
  /-- AD.RGBAQ: register address 0x01 (R231) -/
  | adRgbaq (v : Word64)
  /-- AD.ST: register address 0x02 (R232) -/
  | adSt (v : Word64)
  /-- AD.UV: register address 0x03 (R233) -/
  | adUv (v : Word64)
  /-- AD.XYZF2: register address 0x04 (R234) -/
  | adXyzf2 (v : Word64)
  /-- AD.XYZ2: register address 0x05 (R235) -/
  | adXyz2 (v : Word64)
  /-- AD.TEX0_1: register address 0x06 (R236) -/
  | adTex0_1 (v : Word64)
  /-- AD.TEX0_2: register address 0x07 (R237) -/
  | adTex0_2 (v : Word64)
  /-- AD.CLAMP_1: register address 0x08 (R238) -/
  | adClamp_1 (v : Word64)
  /-- AD.CLAMP_2: register address 0x09 (R239) -/
  | adClamp_2 (v : Word64)
  /-- AD.FOG: register address 0x0A (R240) -/
  | adFog (v : Word64)
  /-- AD.XYZF3: register address 0x0C (R241) -/
  | adXyzf3 (v : Word64)
  /-- AD.XYZ3: register address 0x0D (R242) -/
  | adXyz3 (v : Word64)
  /-- AD.TEX1_1: register address 0x14 (R243) -/
  | adTex1_1 (v : Word64)
  /-- AD.TEX1_2: register address 0x15 (R244) -/
  | adTex1_2 (v : Word64)
  /-- AD.TEX2_1: register address 0x16 (R245) -/
  | adTex2_1 (v : Word64)
  /-- AD.TEX2_2: register address 0x17 (R246) -/
  | adTex2_2 (v : Word64)
  /-- AD.XYOFFSET_1: register address 0x18 (R247) -/
  | adXyoffset_1 (v : Word64)
  /-- AD.XYOFFSET_2: register address 0x19 (R248) -/
  | adXyoffset_2 (v : Word64)
  /-- AD.PRMODECONT: register address 0x1A (R249) -/
  | adPrmodecont (v : Word64)
  /-- AD.PRMODE: register address 0x1B (R250) -/
  | adPrmode (v : Word64)
  /-- AD.TEXCLUT: register address 0x1C (R251) -/
  | adTexclut (v : Word64)
  /-- AD.SCANMSK: register address 0x22 (R252) -/
  | adScanmsk (v : Word64)
  /-- AD.MIPTBP1_1: register address 0x34 (R253) -/
  | adMiptbp1_1 (v : Word64)
  /-- AD.MIPTBP1_2: register address 0x35 (R254) -/
  | adMiptbp1_2 (v : Word64)
  /-- AD.MIPTBP2_1: register address 0x36 (R255) -/
  | adMiptbp2_1 (v : Word64)
  /-- AD.MIPTBP2_2: register address 0x37 (R256) -/
  | adMiptbp2_2 (v : Word64)
  /-- AD.TEXA: register address 0x3B (R257) -/
  | adTexa (v : Word64)
  /-- AD.FOGCOL: register address 0x3D (R258) -/
  | adFogcol (v : Word64)
  /-- AD.TEXFLUSH: register address 0x3F (R259) -/
  | adTexflush (v : Word64)
  /-- AD.SCISSOR_1: register address 0x40 (R260) -/
  | adScissor_1 (v : Word64)
  /-- AD.SCISSOR_2: register address 0x41 (R261) -/
  | adScissor_2 (v : Word64)
  /-- AD.ALPHA_1: register address 0x42 (R262) -/
  | adAlpha_1 (v : Word64)
  /-- AD.ALPHA_2: register address 0x43 (R263) -/
  | adAlpha_2 (v : Word64)
  /-- AD.DIMX: register address 0x44 (R264) -/
  | adDimx (v : Word64)
  /-- AD.DTHE: register address 0x45 (R265) -/
  | adDthe (v : Word64)
  /-- AD.COLCLAMP: register address 0x46 (R266) -/
  | adColclamp (v : Word64)
  /-- AD.TEST_1: register address 0x47 (R267) -/
  | adTest_1 (v : Word64)
  /-- AD.TEST_2: register address 0x48 (R268) -/
  | adTest_2 (v : Word64)
  /-- AD.PABE: register address 0x49 (R269) -/
  | adPabe (v : Word64)
  /-- AD.FBA_1: register address 0x4A (R270) -/
  | adFba_1 (v : Word64)
  /-- AD.FBA_2: register address 0x4B (R271) -/
  | adFba_2 (v : Word64)
  /-- AD.FRAME_1: register address 0x4C (R272) -/
  | adFrame_1 (v : Word64)
  /-- AD.FRAME_2: register address 0x4D (R273) -/
  | adFrame_2 (v : Word64)
  /-- AD.ZBUF_1: register address 0x4E (R274) -/
  | adZbuf_1 (v : Word64)
  /-- AD.ZBUF_2: register address 0x4F (R275) -/
  | adZbuf_2 (v : Word64)
  /-- AD.BITBLTBUF: register address 0x50 (R276) -/
  | adBitbltbuf (v : Word64)
  /-- AD.TRXPOS: register address 0x51 (R277) -/
  | adTrxpos (v : Word64)
  /-- AD.TRXREG: register address 0x52 (R278) -/
  | adTrxreg (v : Word64)
  /-- AD.TRXDIR: register address 0x53 (R279) -/
  | adTrxdir (v : Word64)
  /-- AD.HWREG: register address 0x54 (R280) -/
  | adHwreg (v : Word64)
  /-- AD.SIGNAL: register address 0x60 (R281) -/
  | adSignal (v : Word64)
  /-- AD.FINISH: register address 0x61 (R282) -/
  | adFinish (v : Word64)
  /-- AD.LABEL: register address 0x62 (R283) -/
  | adLabel (v : Word64)
  deriving DecidableEq, Repr

end Sys2Proof
end

