-- ==== Sys2Proof/WellFormed.lean ====
section
/-! DEFINITION. Which terms of `Instr` are the reading of some stream unit: all of them, but an A+D slot whose address has a row of its
own (that slot is the row's instruction, 30_encoding R155). -/

namespace Sys2Proof

/-- The reserved addresses, as 30_encoding R141 lists them. -/
def unassignedAddr (addr : BitVec 7) : Bool :=
  let a := addr.toNat
  a = 0x0B || (0x0E ≤ a && a ≤ 0x13) || (0x1D ≤ a && a ≤ 0x21) || (0x23 ≤ a && a ≤ 0x33) || (0x38 ≤ a && a ≤ 0x3A) ||
    a = 0x3C || a = 0x3E || (0x55 ≤ a && a ≤ 0x5F) || (0x63 ≤ a && a ≤ 0x7F)

/-- The one check: `packedAd` stands for an A+D slot whose address no row of the table has. DESIGN CHOICE (log 13). -/
def Instr.wellFormed : Instr → Bool
  | .packedAd addr _ => unassignedAddr addr
  | _ => true

end Sys2Proof
end

