-- ==== Sys2Proof/Decode.lean ====
section
/-! DEFINITION. The decoder, total on every stream unit and on any bytes, and after it the encoder, both from the layouts of
30_encoding R110, R121, R122 and the codes of R112, R120 and R140. -/

namespace Sys2Proof

/-- What a unit is, as the path's parser state says (30_encoding R112, R120, 40_gif_decoder R170). -/
inductive UnitCtx where
  /-- the path is at a tag boundary -/
  | tag
  /-- a PACKED slot under descriptor `d` -/
  | packed (d : BitVec 4)
  /-- one REGLIST value under descriptor `d`, in the low half of `bits` -/
  | reglist (d : BitVec 4)
  /-- a data qword of an IMAGE tag -/
  | image
  /-- a data qword of an IMAGE2 tag -/
  | image2
  deriving DecidableEq, Repr

/-- A stream unit with its context. -/
structure StreamUnit where
  ctx : UnitCtx
  bits : Qword
  deriving DecidableEq, Repr

/-- Why bytes are no stream unit: the only malformed input is a partial qword (20_memory R85, 60_exceptions R403). -/
inductive DecodeReject where
  | partialQword
  deriving DecidableEq, Repr

/-- The field of `len` bits whose lowest bit is bit `lo` (00_scope R10). -/
def bits {n : Nat} (q : BitVec n) (lo len : Nat) : BitVec len := q.extractLsb' lo len

/-- Bit `i` (00_scope R10). -/
def bit {n : Nat} (q : BitVec n) (i : Nat) : Bool := q.getLsbD i

/-- The qword of 16 stream bytes: bit i is bit (i mod 8) of byte (i div 8) (20_memory R80). -/
def qwordOfBytes (bs : List Byte) : Qword := bs.foldr (fun b acc => (acc <<< 8) ||| b.setWidth 128) 0

/-- The bytes of a value of `8 * k` bits, least significant first (20_memory R80, R81). -/
def bytesOf {n : Nat} (k : Nat) (v : BitVec n) : List Byte := (List.range k).map fun i => bits v (8 * i) 8

/-- FLG of a tag (30_encoding R110). -/
def tagFlg (q : Qword) : BitVec 2 := bits q 58 2

/-- The fields of a tag but FLG (30_encoding R110). -/
def tagFields (q : Qword) : TagFields :=
  { nloop := bits q 0 15, eop := bit q 15, ignored := bits q 16 30, pre := bit q 46, prim := bits q 47 11,
    nreg := bits q 60 4, regs := bits q 64 64 }

/-- A tag by its FLG code (30_encoding R112). -/
def decodeTag (q : Qword) : Instr :=
  match tagFlg q with
  | 0#2 => .giftagPacked (tagFields q)
  | 1#2 => .giftagReglist (tagFields q)
  | 2#2 => .giftagImage (.tag (tagFields q))
  | _ => .giftagImage2 (.tag (tagFields q))

/-- The register address map (30_encoding R140); none for a reserved address (R141). -/
def decodeAd (addr : BitVec 7) (v : Word64) : Option Instr :=
  match addr with
  | 0x00#7 => some (.adPrim v)
  | 0x01#7 => some (.adRgbaq v)
  | 0x02#7 => some (.adSt v)
  | 0x03#7 => some (.adUv v)
  | 0x04#7 => some (.adXyzf2 v)
  | 0x05#7 => some (.adXyz2 v)
  | 0x06#7 => some (.adTex0_1 v)
  | 0x07#7 => some (.adTex0_2 v)
  | 0x08#7 => some (.adClamp_1 v)
  | 0x09#7 => some (.adClamp_2 v)
  | 0x0A#7 => some (.adFog v)
  | 0x0C#7 => some (.adXyzf3 v)
  | 0x0D#7 => some (.adXyz3 v)
  | 0x14#7 => some (.adTex1_1 v)
  | 0x15#7 => some (.adTex1_2 v)
  | 0x16#7 => some (.adTex2_1 v)
  | 0x17#7 => some (.adTex2_2 v)
  | 0x18#7 => some (.adXyoffset_1 v)
  | 0x19#7 => some (.adXyoffset_2 v)
  | 0x1A#7 => some (.adPrmodecont v)
  | 0x1B#7 => some (.adPrmode v)
  | 0x1C#7 => some (.adTexclut v)
  | 0x22#7 => some (.adScanmsk v)
  | 0x34#7 => some (.adMiptbp1_1 v)
  | 0x35#7 => some (.adMiptbp1_2 v)
  | 0x36#7 => some (.adMiptbp2_1 v)
  | 0x37#7 => some (.adMiptbp2_2 v)
  | 0x3B#7 => some (.adTexa v)
  | 0x3D#7 => some (.adFogcol v)
  | 0x3F#7 => some (.adTexflush v)
  | 0x40#7 => some (.adScissor_1 v)
  | 0x41#7 => some (.adScissor_2 v)
  | 0x42#7 => some (.adAlpha_1 v)
  | 0x43#7 => some (.adAlpha_2 v)
  | 0x44#7 => some (.adDimx v)
  | 0x45#7 => some (.adDthe v)
  | 0x46#7 => some (.adColclamp v)
  | 0x47#7 => some (.adTest_1 v)
  | 0x48#7 => some (.adTest_2 v)
  | 0x49#7 => some (.adPabe v)
  | 0x4A#7 => some (.adFba_1 v)
  | 0x4B#7 => some (.adFba_2 v)
  | 0x4C#7 => some (.adFrame_1 v)
  | 0x4D#7 => some (.adFrame_2 v)
  | 0x4E#7 => some (.adZbuf_1 v)
  | 0x4F#7 => some (.adZbuf_2 v)
  | 0x50#7 => some (.adBitbltbuf v)
  | 0x51#7 => some (.adTrxpos v)
  | 0x52#7 => some (.adTrxreg v)
  | 0x53#7 => some (.adTrxdir v)
  | 0x54#7 => some (.adHwreg v)
  | 0x60#7 => some (.adSignal v)
  | 0x61#7 => some (.adFinish v)
  | 0x62#7 => some (.adLabel v)
  | _ => none

/-- An A+D slot: the row of its address, or the PACKED.A+D row where no row has it (30_encoding R155, 40_gif_decoder R194). -/
def decodeAdSlot (addr : BitVec 7) (v : Word64) : Instr := (decodeAd addr v).getD (.packedAd addr v)

/-- A PACKED slot by its descriptor (30_encoding R120, R121). -/
def decodePacked (d : BitVec 4) (q : Qword) : Instr :=
  match d with
  | 0x0#4 => .packedPrim (bits q 0 11)
  | 0x1#4 => .packedRgba (bits q 0 8) (bits q 32 8) (bits q 64 8) (bits q 96 8)
  | 0x2#4 => .packedStq (bits q 0 32) (bits q 32 32) (bits q 64 32)
  | 0x3#4 => .packedUv (bits q 0 14) (bits q 32 14)
  | 0x4#4 => .packedXyzf2 (bits q 0 16) (bits q 32 16) (bits q 68 24) (bits q 100 8) (bit q 111)
  | 0x5#4 => .packedXyz2 (bits q 0 16) (bits q 32 16) (bits q 64 32) (bit q 111)
  | 0x6#4 => .packedTex0_1 (bits q 0 64)
  | 0x7#4 => .packedTex0_2 (bits q 0 64)
  | 0x8#4 => .packedClamp_1 (bits q 0 64)
  | 0x9#4 => .packedClamp_2 (bits q 0 64)
  | 0xA#4 => .packedFog (bits q 100 8)
  | 0xB#4 => .packedReservedB
  | 0xC#4 => .packedXyzf3 (bits q 0 16) (bits q 32 16) (bits q 68 24) (bits q 100 8)
  | 0xD#4 => .packedXyz3 (bits q 0 16) (bits q 32 16) (bits q 64 32)
  | 0xE#4 => decodeAdSlot (bits q 64 7) (bits q 0 64)
  | _ => .packedNop

/-- A REGLIST value by its descriptor (30_encoding R120). -/
def decodeReglist (d : BitVec 4) (v : Word64) : Instr :=
  match d with
  | 0x0#4 => .reglistPrim v
  | 0x1#4 => .reglistRgbaq v
  | 0x2#4 => .reglistSt v
  | 0x3#4 => .reglistUv v
  | 0x4#4 => .reglistXyzf2 v
  | 0x5#4 => .reglistXyz2 v
  | 0x6#4 => .reglistTex0_1 v
  | 0x7#4 => .reglistTex0_2 v
  | 0x8#4 => .reglistClamp_1 v
  | 0x9#4 => .reglistClamp_2 v
  | 0xA#4 => .reglistFog v
  | 0xB#4 => .reglistUnassigned0B v
  | 0xC#4 => .reglistXyzf3 v
  | 0xD#4 => .reglistXyz3 v
  | 0xE#4 => .reglistAd v
  | _ => .reglistNop v

/-- The decoder: every unit is an instruction (60_exceptions R403). -/
def decode (u : StreamUnit) : Instr :=
  match u.ctx with
  | .tag => decodeTag u.bits
  | .packed d => decodePacked d u.bits
  | .reglist d => decodeReglist d (bits u.bits 0 64)
  | .image => .giftagImage (.data u.bits)
  | .image2 => .giftagImage2 (.data u.bits)

/-- The decoder on the bytes of one qword; any other number of bytes is rejected by name (20_memory R85). -/
def decodeBytes (ctx : UnitCtx) (bs : List Byte) : Except DecodeReject Instr :=
  if bs.length = 16 then .ok (decode ⟨ctx, qwordOfBytes bs⟩) else .error .partialQword

/-! ## The encoder -/

/-- `qword = {REGS, NREG, FLG, PRIM, PRE, 30 ignored bits, EOP, NLOOP}` (30_encoding R151). -/
def encodeTag (flg : BitVec 2) (t : TagFields) : Qword :=
  t.regs ++ t.nreg ++ flg ++ t.prim ++ BitVec.ofBool t.pre ++ t.ignored ++ BitVec.ofBool t.eop ++ t.nloop

/-- An A+D slot (30_encoding R121). -/
def adSlot (addr : BitVec 7) (v : Word64) : Qword := (0#57 ++ addr ++ v : Qword)

/-- The unit of an A+D slot. -/
def adUnit (addr : BitVec 7) (v : Word64) : StreamUnit := ⟨.packed 0xE#4, adSlot addr v⟩

/-- The unit of a REGLIST value. -/
def reglistUnit (d : BitVec 4) (v : Word64) : StreamUnit := ⟨.reglist d, (0#64 ++ v : Qword)⟩

/-- The encoder: the unit of an instruction, its ignored bits 0. -/
def encode (i : Instr) : StreamUnit :=
  match i with
  | .giftagPacked t => ⟨.tag, encodeTag 0#2 t⟩
  | .giftagReglist t => ⟨.tag, encodeTag 1#2 t⟩
  | .giftagImage (.tag t) => ⟨.tag, encodeTag 2#2 t⟩
  | .giftagImage (.data q) => ⟨.image, q⟩
  | .giftagImage2 (.tag t) => ⟨.tag, encodeTag 3#2 t⟩
  | .giftagImage2 (.data q) => ⟨.image2, q⟩
  | .packedPrim v => ⟨.packed 0x0#4, (0#117 ++ v : Qword)⟩
  | .packedRgba r g b a => ⟨.packed 0x1#4, (0#24 ++ a ++ 0#24 ++ b ++ 0#24 ++ g ++ 0#24 ++ r : Qword)⟩
  | .packedStq s t q => ⟨.packed 0x2#4, (0#32 ++ q ++ t ++ s : Qword)⟩
  | .packedUv u v => ⟨.packed 0x3#4, (0#82 ++ v ++ 0#18 ++ u : Qword)⟩
  | .packedXyzf2 x y z f adc => ⟨.packed 0x4#4, (0#16 ++ BitVec.ofBool adc ++ 0#3 ++ f ++ 0#8 ++ z ++ 0#4 ++ 0#16 ++ y ++ 0#16 ++ x : Qword)⟩
  | .packedXyz2 x y z adc => ⟨.packed 0x5#4, (0#16 ++ BitVec.ofBool adc ++ 0#15 ++ z ++ 0#16 ++ y ++ 0#16 ++ x : Qword)⟩
  | .packedTex0_1 data => ⟨.packed 0x6#4, (0#64 ++ data : Qword)⟩
  | .packedTex0_2 data => ⟨.packed 0x7#4, (0#64 ++ data : Qword)⟩
  | .packedClamp_1 data => ⟨.packed 0x8#4, (0#64 ++ data : Qword)⟩
  | .packedClamp_2 data => ⟨.packed 0x9#4, (0#64 ++ data : Qword)⟩
  | .packedFog f => ⟨.packed 0xA#4, (0#20 ++ f ++ 0#100 : Qword)⟩
  | .packedReservedB => ⟨.packed 0xB#4, 0⟩
  | .packedXyzf3 x y z f => ⟨.packed 0xC#4, (0#20 ++ f ++ 0#8 ++ z ++ 0#4 ++ 0#16 ++ y ++ 0#16 ++ x : Qword)⟩
  | .packedXyz3 x y z => ⟨.packed 0xD#4, (0#32 ++ z ++ 0#16 ++ y ++ 0#16 ++ x : Qword)⟩
  | .packedAd addr data => ⟨.packed 0xE#4, adSlot addr data⟩
  | .packedNop => ⟨.packed 0xF#4, 0⟩
  | .reglistPrim v => reglistUnit 0x0#4 v
  | .reglistRgbaq v => reglistUnit 0x1#4 v
  | .reglistSt v => reglistUnit 0x2#4 v
  | .reglistUv v => reglistUnit 0x3#4 v
  | .reglistXyzf2 v => reglistUnit 0x4#4 v
  | .reglistXyz2 v => reglistUnit 0x5#4 v
  | .reglistTex0_1 v => reglistUnit 0x6#4 v
  | .reglistTex0_2 v => reglistUnit 0x7#4 v
  | .reglistClamp_1 v => reglistUnit 0x8#4 v
  | .reglistClamp_2 v => reglistUnit 0x9#4 v
  | .reglistFog v => reglistUnit 0xA#4 v
  | .reglistUnassigned0B v => reglistUnit 0xB#4 v
  | .reglistXyzf3 v => reglistUnit 0xC#4 v
  | .reglistXyz3 v => reglistUnit 0xD#4 v
  | .reglistAd v => reglistUnit 0xE#4 v
  | .reglistNop v => reglistUnit 0xF#4 v
  | .adPrim v => adUnit 0x00#7 v
  | .adRgbaq v => adUnit 0x01#7 v
  | .adSt v => adUnit 0x02#7 v
  | .adUv v => adUnit 0x03#7 v
  | .adXyzf2 v => adUnit 0x04#7 v
  | .adXyz2 v => adUnit 0x05#7 v
  | .adTex0_1 v => adUnit 0x06#7 v
  | .adTex0_2 v => adUnit 0x07#7 v
  | .adClamp_1 v => adUnit 0x08#7 v
  | .adClamp_2 v => adUnit 0x09#7 v
  | .adFog v => adUnit 0x0A#7 v
  | .adXyzf3 v => adUnit 0x0C#7 v
  | .adXyz3 v => adUnit 0x0D#7 v
  | .adTex1_1 v => adUnit 0x14#7 v
  | .adTex1_2 v => adUnit 0x15#7 v
  | .adTex2_1 v => adUnit 0x16#7 v
  | .adTex2_2 v => adUnit 0x17#7 v
  | .adXyoffset_1 v => adUnit 0x18#7 v
  | .adXyoffset_2 v => adUnit 0x19#7 v
  | .adPrmodecont v => adUnit 0x1A#7 v
  | .adPrmode v => adUnit 0x1B#7 v
  | .adTexclut v => adUnit 0x1C#7 v
  | .adScanmsk v => adUnit 0x22#7 v
  | .adMiptbp1_1 v => adUnit 0x34#7 v
  | .adMiptbp1_2 v => adUnit 0x35#7 v
  | .adMiptbp2_1 v => adUnit 0x36#7 v
  | .adMiptbp2_2 v => adUnit 0x37#7 v
  | .adTexa v => adUnit 0x3B#7 v
  | .adFogcol v => adUnit 0x3D#7 v
  | .adTexflush v => adUnit 0x3F#7 v
  | .adScissor_1 v => adUnit 0x40#7 v
  | .adScissor_2 v => adUnit 0x41#7 v
  | .adAlpha_1 v => adUnit 0x42#7 v
  | .adAlpha_2 v => adUnit 0x43#7 v
  | .adDimx v => adUnit 0x44#7 v
  | .adDthe v => adUnit 0x45#7 v
  | .adColclamp v => adUnit 0x46#7 v
  | .adTest_1 v => adUnit 0x47#7 v
  | .adTest_2 v => adUnit 0x48#7 v
  | .adPabe v => adUnit 0x49#7 v
  | .adFba_1 v => adUnit 0x4A#7 v
  | .adFba_2 v => adUnit 0x4B#7 v
  | .adFrame_1 v => adUnit 0x4C#7 v
  | .adFrame_2 v => adUnit 0x4D#7 v
  | .adZbuf_1 v => adUnit 0x4E#7 v
  | .adZbuf_2 v => adUnit 0x4F#7 v
  | .adBitbltbuf v => adUnit 0x50#7 v
  | .adTrxpos v => adUnit 0x51#7 v
  | .adTrxreg v => adUnit 0x52#7 v
  | .adTrxdir v => adUnit 0x53#7 v
  | .adHwreg v => adUnit 0x54#7 v
  | .adSignal v => adUnit 0x60#7 v
  | .adFinish v => adUnit 0x61#7 v
  | .adLabel v => adUnit 0x62#7 v

/-! ## The table's words -/

/-- The stream unit a word of spec/opcode_table.json stands for. A row of 60 bits or more is a tag. The rows of the other formats have
4 or 7 bits, and the same number stands in several of them, so the number alone cannot name the row: with more than 4 bits it is read
as a register address (an A+D slot with that ADDR and DATA 0), but for 0x0B and 0x0F, which no address row has and which are read as
PACKED descriptors; with at most 4 bits it is a PACKED descriptor. No word is refused (60_exceptions R403). DESIGN CHOICE (log 14). -/
def unitOfTableWord (nbits w : Nat) : Option StreamUnit :=
  if 60 ≤ nbits then some ⟨.tag, BitVec.ofNat 128 w⟩
  else if nbits ≤ 4 then some ⟨.packed (BitVec.ofNat 4 w), 0⟩
  else if w % 128 = 0x0B || w % 128 = 0x0F then some ⟨.packed (BitVec.ofNat 4 w), 0⟩
  else some (adUnit (BitVec.ofNat 7 w) 0)

/-- The instruction the decoder reads from a table word. -/
def decodeTableWord (nbits w : Nat) : Option Instr := (unitOfTableWord nbits w).map decode

end Sys2Proof
end

