-- ==== Sys2Proof/Machine/State.lean ====
section
/-! DEFINITION. The state of the block as plain data (10_state R30), the host's side of its interface (70 R450), the reasons it can
stop, and the state after power-on reset (10_state R53). -/

namespace Sys2Proof.Machine

/-- The fatal fault (60_exceptions R400). -/
inductive Fault where
  /-- Raised by a kick that would exceed `VBUF_MAX` or an accept that would exceed `IBUF_MAX` (42_vertex_kick R310): the state keeps the
  fault, and `step` answers it once no host call is left that could act (60_exceptions R401). Safe: the spec calls it fatal. -/
  | bufferExhausted
  deriving DecidableEq, Repr

/-- The refusals (60_exceptions R400). -/
inductive Refusal where
  /-- An instruction without a meaning; no arm of `exec` answers it. Safe. -/
  | notModelled (mnemonic : String)
  /-- A feed call whose byte count is not 16 × size (40_gif_decoder R170). Safe: the spec refuses it. -/
  | partialQword
  /-- A feed on one path while another path is mid-tag (40_gif_decoder R179). Safe: the spec refuses it. -/
  | pathInterleavedMidTag
  /-- PACKED descriptor 0xB under `RESERVED_DESC_POLICY = refuse` (40_gif_decoder R191). Safe: the spec refuses it. -/
  | reservedDescriptor
  /-- `Defrost` of a blob that `SNAPSHOT_FORMAT` cannot decode (70 R433). Safe: the spec refuses it. -/
  | badSnapshot
  deriving DecidableEq, Repr

/-- The four paths (00_scope R7 `NUM_PATHS`). -/
inductive PathId where
  | p0 | p1 | p2 | p3
  deriving DecidableEq, Repr

/-- The two drawing contexts (00_scope R7 `NUM_CONTEXTS`). -/
inductive CtxId where
  | c0 | c1
  deriving DecidableEq, Repr

/-- Parser state of one path (10_state R31). -/
structure PathState where
  /-- the last GIFTag read -/
  tag : Qword
  /-- loop iterations still to process; 0 at a tag boundary -/
  nloop : BitVec 15
  /-- register-slot cursor -/
  reg : BitVec 4
  deriving DecidableEq, Repr

/-- A path at power-on, and after SoftReset (10_state R53, 40_gif_decoder R199). -/
def PathState.fresh : PathState := ⟨0, 0, 0⟩

/-- The drawing environment (10_state R35), each register in its stored form (R36). -/
structure Env where
  prim : Word64
  prmodecont : Word64
  prmode : Word64
  texclut : Word64
  scanmsk : Word64
  texa : Word64
  fogcol : Word64
  dimx : Word64
  dthe : Word64
  colclamp : Word64
  pabe : Word64
  bitbltbuf : Word64
  trxpos : Word64
  trxreg : Word64
  trxdir : Word64
  deriving DecidableEq, Repr

/-- The sticky vertex accumulator (10_state R40). -/
structure VAcc where
  r : BitVec 8
  g : BitVec 8
  b : BitVec 8
  a : BitVec 8
  q : BitVec 32
  s : BitVec 32
  t : BitVec 32
  u : BitVec 14
  v : BitVec 14
  f : BitVec 8
  deriving DecidableEq, Repr

/-- A buffered vertex (10_state R42): its position and the accumulator at its kick. -/
structure Vertex where
  x : BitVec 16
  y : BitVec 16
  z : BitVec 32
  attrs : VAcc
  deriving DecidableEq, Repr

/-- The pending vertices and indices (10_state R43, R44); `tail` is the length of `vbuf`. -/
structure VertexQueue where
  vbuf : List Vertex
  head : Nat
  next : Nat
  ibuf : List Nat
  deriving DecidableEq, Repr

/-- A scissor-relative position in 1/16 pixel (10_state R45). -/
structure XY where
  sx : Int
  sy : Int
  deriving DecidableEq, Repr

/-- The last four scissor-relative positions and the kick count modulo 4 (10_state R45). -/
structure Window where
  e0 : XY
  e1 : XY
  e2 : XY
  e3 : XY
  count : Fin 4
  deriving DecidableEq, Repr

/-- The modes of the transfer engine (10_state R47). -/
inductive XferMode where
  | idle | write | read
  deriving DecidableEq, Repr

/-- The transfer engine (10_state R47). -/
structure Xfer where
  mode : XferMode
  /-- BITBLTBUF as latched at the TRXDIR write -/
  blit : Word64
  /-- TRXPOS as latched at the TRXDIR write -/
  pos : Word64
  w : Nat
  h : Nat
  bpp : Nat
  cx : Nat
  cy : Nat
  done : Nat
  total : Nat
  pbits : BitVec 39
  pcount : Nat
  overflow : Bool
  deriving DecidableEq, Repr

/-- Local memory (10_state R49): the bytes that have a known value, addresses strictly rising. An address that is not listed holds no
value of its own: it reads as byte `Config.freeMem epoch address`. DESIGN CHOICE (log 5). -/
structure Memory where
  cells : List Host.Cell
  epoch : Nat
  deriving DecidableEq, Repr

/-- The Draw class, and the class of a topology (42_vertex_kick R300). -/
inductive PrimClass where
  | point | line | triangle | sprite | invalid
  deriving DecidableEq, Repr

/-- What a Draw shows of the registers (43_flush_draw R342). -/
structure Snapshot where
  env : Env
  ctx : Ctx
  actx : CtxId
  attr : BitVec 8
  deriving DecidableEq, Repr

/-- A pixel rectangle (44_transfer R381). -/
structure Rect where
  x : Nat
  y : Nat
  w : Nat
  h : Nat
  deriving DecidableEq, Repr

/-- Codes of `Log` events (60_exceptions R400). -/
inductive LogCode where
  | transferOverflow
  deriving DecidableEq, Repr

/-- Codes of `Error` events (60_exceptions R400). -/
inductive ErrorCode where
  | rendererFailed
  deriving DecidableEq, Repr

/-- Output events (10_state R52). -/
inductive Event where
  | draw (snap : Snapshot) (vertices : List Vertex) (indices : List Nat) (cls : PrimClass)
  | invalidateLocalMem (blit : Word64) (rect : Rect)
  | invalidateVideoMem (blit : Word64) (rect : Rect)
  | readData (bytes : List Byte)
  | log (code : LogCode)
  | error (code : ErrorCode)
  deriving DecidableEq, Repr

/-- What Freeze saves and Defrost restores (70 R433). -/
structure Image where
  path0 : PathState
  path1 : PathState
  path2 : PathState
  path3 : PathState
  env : Env
  ctx0 : Ctx
  ctx1 : Ctx
  vacc : VAcc
  qint : BitVec 32
  vq : VertexQueue
  win : Window
  xfer : Xfer
  deriving DecidableEq, Repr

/-- A save-state byte string (70 R433). -/
abbrev Blob := List Byte

/-- A host call (70 R450). -/
inductive HostCall where
  | powerOn
  | transfer (p : PathId) (bytes : List Byte) (size : Nat)
  | softReset (mask : BitVec 4)
  | flushRequest
  | readFIFO (n : Nat)
  | reconfigure (autoFlush altUvRounding kickEnabled : Bool)
  | freeze
  | defrost (blob : Blob)
  deriving DecidableEq, Repr

/-- The feed call in progress (40_gif_decoder R170): its path, the qwords not yet consumed, and whether the low half of the first of
them, a REGLIST qword, is already processed (R176). DESIGN CHOICE (log 3). -/
structure Feed where
  path : PathId
  qwords : List Qword
  half : Bool
  deriving DecidableEq, Repr

/-- What the renderer answers to one Draw (43_flush_draw R352): its verdict, and the bytes it stored. DESIGN CHOICE (log 6). -/
structure RendererReply where
  ok : Bool
  writes : List Host.Cell
  deriving DecidableEq, Repr

/-- The state: the record of 10_state R30, then the model's own fields. -/
structure State where
  path0 : PathState
  path1 : PathState
  path2 : PathState
  path3 : PathState
  env : Env
  ctx0 : Ctx
  ctx1 : Ctx
  vacc : VAcc
  /-- internal Q (10_state R41) -/
  qint : BitVec 32
  vq : VertexQueue
  win : Window
  xfer : Xfer
  mem : Memory
  /-- the fatal fault, if one was raised (10_state R51) -/
  fault : Option Fault
  /-- `refused` of 10_state R51, with the code of 60_exceptions R400 (log 4) -/
  refused : Option Refusal
  /-- output events so far, oldest first (10_state R52) -/
  out : List Event
  /-- the configuration input (00_scope R7; log 1) -/
  cfg : Cfg
  /-- host calls not yet taken, oldest first (70 R450; log 2) -/
  calls : List HostCall
  /-- the feed call in progress (log 3) -/
  feed : Feed
  /-- renderer answers not yet used, oldest first (log 6) -/
  replies : List RendererReply
  /-- blobs that Freeze has returned, oldest first (log 10) -/
  blobs : List Blob
  /-- how many free values have been drawn (log 16) -/
  freeCount : Nat
  deriving DecidableEq, Repr

def Env.zero : Env := ⟨0, 0, 0, 0, 0, 0, 0, 0, 0, 0, 0, 0, 0, 0, 0⟩
def Ctx.zero : Ctx := ⟨0, 0, 0, 0, 0, 0, 0, 0, 0, 0, 0, 0⟩
def VAcc.zero : VAcc := ⟨0, 0, 0, 0, 0, 0, 0, 0, 0, 0⟩
def VertexQueue.empty : VertexQueue := ⟨[], 0, 0, []⟩
def Window.zero : Window := ⟨⟨0, 0⟩, ⟨0, 0⟩, ⟨0, 0⟩, ⟨0, 0⟩, 0⟩
def Xfer.idle : Xfer :=
  { mode := .idle, blit := 0, pos := 0, w := 0, h := 0, bpp := 0, cx := 0, cy := 0, done := 0, total := 0, pbits := 0, pcount := 0,
    overflow := false }

/-- The single-precision pattern of 1.0 (10_state R41). -/
def qintOne : BitVec 32 := 0x3F800000#32

/-- Power-on reset (10_state R53), with no host call pending. Its local memory lists nothing: every byte is the free value of memory
image 0. -/
def State.reset : State :=
  { path0 := .fresh, path1 := .fresh, path2 := .fresh, path3 := .fresh, env := .zero, ctx0 := .zero, ctx1 := .zero, vacc := .zero,
    qint := qintOne, vq := .empty, win := .zero, xfer := .idle, mem := ⟨[], 0⟩, fault := none, refused := none, out := [],
    cfg := Config.defaults, calls := [], feed := ⟨.p0, [], false⟩, replies := [], blobs := [], freeCount := 1 }

end Sys2Proof.Machine
end

