-- ==== Sys2Proof/Machine/Operands.lean ====
section
/-! DEFINITION. Operand forms: the registers by name with their stored forms (10_state R36, R55 to R78), the vertex layouts (R79), and
the fields of stored registers the block's own rules read. -/

namespace Sys2Proof.Machine

/-- The environment registers (10_state R35). -/
inductive EnvReg where
  | prim | prmodecont | prmode | texclut | scanmsk | texa | fogcol | dimx | dthe | colclamp | pabe
  | bitbltbuf | trxpos | trxreg | trxdir
  deriving DecidableEq, Repr

/-- The registers of a drawing context (10_state R37). -/
inductive CtxReg where
  | xyoffset | tex0 | tex1 | clamp | miptbp1 | miptbp2 | scissor | alpha | test | fba | frame | zbuf
  deriving DecidableEq, Repr

/-- The defined bits of an environment register (10_state R55 to R67). -/
def EnvReg.mask : EnvReg → Word64
  | .prim => 0x00000000000007FF#64
  | .prmodecont => 0x0000000000000001#64
  | .prmode => 0x00000000000007F8#64
  | .texclut => 0x00000000003FFFFF#64
  | .scanmsk => 0x0000000000000003#64
  | .texa => 0x000000FF000080FF#64
  | .fogcol => 0x0000000000FFFFFF#64
  | .dimx => 0x7777777777777777#64
  | .dthe => 0x0000000000000001#64
  | .colclamp => 0x0000000000000001#64
  | .pabe => 0x0000000000000001#64
  | .bitbltbuf => 0x3F3F3FFF3F3F3FFF#64
  | .trxpos => 0x1FFF07FF07FF07FF#64
  | .trxreg => 0x00000FFF00000FFF#64
  | .trxdir => 0x0000000000000003#64

/-- The defined bits of a context register (10_state R68 to R78). -/
def CtxReg.mask : CtxReg → Word64
  | .xyoffset => 0x0000FFFF0000FFFF#64
  | .tex0 => 0xFFFFFFFFFFFFFFFF#64
  | .tex1 => 0x00000FFF001803FD#64
  | .clamp => 0x00000FFFFFFFFFFF#64
  | .miptbp1 => 0x0FFFFFFFFFFFFFFF#64
  | .miptbp2 => 0x0FFFFFFFFFFFFFFF#64
  | .scissor => 0x07FF07FF07FF07FF#64
  | .alpha => 0x000000FF000000FF#64
  | .test => 0x000000000007FFFF#64
  | .fba => 0x0000000000000001#64
  | .frame => 0xFFFFFFFF3F3F01FF#64
  | .zbuf => 0x000000010F0001FF#64

/-- `Store(name, v)`: the defined fields of v, reserved bits cleared (10_state R36). -/
def EnvReg.stored (r : EnvReg) (v : Word64) : Word64 := v &&& r.mask
/-- `Store(name, v)` for a context register (10_state R36). -/
def CtxReg.stored (r : CtxReg) (v : Word64) : Word64 := v &&& r.mask

def Env.get (e : Env) : EnvReg → Word64
  | .prim => e.prim
  | .prmodecont => e.prmodecont
  | .prmode => e.prmode
  | .texclut => e.texclut
  | .scanmsk => e.scanmsk
  | .texa => e.texa
  | .fogcol => e.fogcol
  | .dimx => e.dimx
  | .dthe => e.dthe
  | .colclamp => e.colclamp
  | .pabe => e.pabe
  | .bitbltbuf => e.bitbltbuf
  | .trxpos => e.trxpos
  | .trxreg => e.trxreg
  | .trxdir => e.trxdir

def Env.set (e : Env) (r : EnvReg) (v : Word64) : Env :=
  match r with
  | .prim => { e with prim := v }
  | .prmodecont => { e with prmodecont := v }
  | .prmode => { e with prmode := v }
  | .texclut => { e with texclut := v }
  | .scanmsk => { e with scanmsk := v }
  | .texa => { e with texa := v }
  | .fogcol => { e with fogcol := v }
  | .dimx => { e with dimx := v }
  | .dthe => { e with dthe := v }
  | .colclamp => { e with colclamp := v }
  | .pabe => { e with pabe := v }
  | .bitbltbuf => { e with bitbltbuf := v }
  | .trxpos => { e with trxpos := v }
  | .trxreg => { e with trxreg := v }
  | .trxdir => { e with trxdir := v }

def Ctx.get (c : Ctx) : CtxReg → Word64
  | .xyoffset => c.xyoffset
  | .tex0 => c.tex0
  | .tex1 => c.tex1
  | .clamp => c.clamp
  | .miptbp1 => c.miptbp1
  | .miptbp2 => c.miptbp2
  | .scissor => c.scissor
  | .alpha => c.alpha
  | .test => c.test
  | .fba => c.fba
  | .frame => c.frame
  | .zbuf => c.zbuf

def Ctx.set (c : Ctx) (r : CtxReg) (v : Word64) : Ctx :=
  match r with
  | .xyoffset => { c with xyoffset := v }
  | .tex0 => { c with tex0 := v }
  | .tex1 => { c with tex1 := v }
  | .clamp => { c with clamp := v }
  | .miptbp1 => { c with miptbp1 := v }
  | .miptbp2 => { c with miptbp2 := v }
  | .scissor => { c with scissor := v }
  | .alpha => { c with alpha := v }
  | .test => { c with test := v }
  | .fba => { c with fba := v }
  | .frame => { c with frame := v }
  | .zbuf => { c with zbuf := v }

/-- The TEX0 fields a TEX2 write replaces: PSM, CBP, CPSM, CSM, CSA, CLD (41_register_dispatch R245). -/
def tex2Mask : Word64 := 0xFFFFFFE003F00000#64

/-- TEX0 with the fields of a TEX2 value (41_register_dispatch R245). -/
def tex2Merge (tex0 v : Word64) : Word64 := (tex0 &&& ~~~tex2Mask) ||| (v &&& tex2Mask)

/-! ## Paths and contexts -/

def State.path (s : State) : PathId → PathState
  | .p0 => s.path0
  | .p1 => s.path1
  | .p2 => s.path2
  | .p3 => s.path3

def State.setPath (s : State) (p : PathId) (v : PathState) : State :=
  match p with
  | .p0 => { s with path0 := v }
  | .p1 => { s with path1 := v }
  | .p2 => { s with path2 := v }
  | .p3 => { s with path3 := v }

def State.ctx (s : State) : CtxId → Ctx
  | .c0 => s.ctx0
  | .c1 => s.ctx1

def State.setCtx (s : State) (c : CtxId) (v : Ctx) : State :=
  match c with
  | .c0 => { s with ctx0 := v }
  | .c1 => { s with ctx1 := v }

/-- Bit p of a four-bit path mask (40_gif_decoder R199). -/
def PathId.inMask (p : PathId) (mask : BitVec 4) : Bool :=
  match p with
  | .p0 => bit mask 0
  | .p1 => bit mask 1
  | .p2 => bit mask 2
  | .p3 => bit mask 3

/-! ## Fields of the stored tag (10_state R32, 30_encoding R110) -/

def PathState.flg (p : PathState) : BitVec 2 := tagFlg p.tag
def PathState.eop (p : PathState) : Bool := bit p.tag 15

/-- The effective register count: "0 means 16" (10_state R32). -/
def PathState.nreg (p : PathState) : Nat :=
  let n : BitVec 4 := bits p.tag 60 4
  if n = 0#4 then 16 else n.toNat

/-- `GetReg`: the descriptor of the current slot (10_state R32, 40_gif_decoder R174). -/
def PathState.getReg (p : PathState) : BitVec 4 := bits p.tag (64 + 4 * p.reg.toNat) 4

/-- `StepReg` (40_gif_decoder R174). -/
def PathState.stepReg (p : PathState) : PathState :=
  if p.reg.toNat + 1 = p.nreg then { p with reg := 0#4, nloop := p.nloop - 1#15 }
  else { p with reg := p.reg + 1#4 }

/-! ## Vertex layouts of 64-bit values (10_state R79) -/

def VAcc.setRgba (a : VAcc) (r g b al : BitVec 8) (q : BitVec 32) : VAcc := { a with r := r, g := g, b := b, a := al, q := q }
def VAcc.setSt (a : VAcc) (s t : BitVec 32) : VAcc := { a with s := s, t := t }
def VAcc.setUv (a : VAcc) (u v : BitVec 14) : VAcc := { a with u := u, v := v }
def VAcc.setFog (a : VAcc) (f : BitVec 8) : VAcc := { a with f := f }

/-! ## Fields of stored registers that rules of the block read -/

/-- OFX and OFY (10_state R68). -/
def ofx (c : Ctx) : Nat := (bits c.xyoffset 0 16).toNat
def ofy (c : Ctx) : Nat := (bits c.xyoffset 32 16).toNat

/-- The scissor rectangle (10_state R73). -/
def scax0 (c : Ctx) : Nat := (bits c.scissor 0 11).toNat
def scax1 (c : Ctx) : Nat := (bits c.scissor 16 11).toNat
def scay0 (c : Ctx) : Nat := (bits c.scissor 32 11).toNat
def scay1 (c : Ctx) : Nat := (bits c.scissor 48 11).toNat

/-- FRAME.FBP and TEX0.TBP0 (10_state R77, R69). -/
def fbp (c : Ctx) : Nat := (bits c.frame 0 9).toNat
def tbp0 (c : Ctx) : Nat := (bits c.tex0 0 14).toNat

/-- Fields of BITBLTBUF (10_state R64). -/
def sbp (v : Word64) : Nat := (bits v 0 14).toNat
def sbw (v : Word64) : Nat := (bits v 16 6).toNat
def spsm (v : Word64) : BitVec 6 := bits v 24 6
def dbp (v : Word64) : Nat := (bits v 32 14).toNat
def dbw (v : Word64) : Nat := (bits v 48 6).toNat
def dpsm (v : Word64) : BitVec 6 := bits v 56 6

/-- Fields of TRXPOS (10_state R65). -/
def ssax (v : Word64) : Nat := (bits v 0 11).toNat
def ssay (v : Word64) : Nat := (bits v 16 11).toNat
def dsax (v : Word64) : Nat := (bits v 32 11).toNat
def dsay (v : Word64) : Nat := (bits v 48 11).toNat
def diry (v : Word64) : Bool := bit v 59
def dirx (v : Word64) : Bool := bit v 60

/-- Fields of TRXREG (10_state R66). -/
def rrw (v : Word64) : Nat := (bits v 0 12).toNat
def rrh (v : Word64) : Nat := (bits v 32 12).toNat

/-- TRXDIR.XDIR (10_state R67). -/
def xdir (v : Word64) : BitVec 2 := bits v 0 2

end Sys2Proof.Machine
end

