-- ==== Sys2Proof/Machine/Flags.lean ====
section
/-! DEFINITION. The block has no condition codes (10_state R34). In their place: the selectors the rules derive from the registers and
never store (10_state R39), and the topology table (42_vertex_kick R300). -/

namespace Sys2Proof.Machine

/-- The topologies (42_vertex_kick R300); `invalid` is type 7 under `PRIM7_POLICY = discard`. -/
inductive Topology where
  | pointList | lineList | lineStrip | triangleList | triangleStrip | triangleFan | sprite | invalid
  deriving DecidableEq, Repr

/-- How a topology reuses vertices (42_vertex_kick R300). -/
inductive Group where
  | list | strip | fan | discard
  deriving DecidableEq, Repr

/-- The topology of a 3-bit type (10_state R55, 42_vertex_kick R300). -/
def topologyOf (policy : Prim7Policy) (t : BitVec 3) : Topology :=
  match t with
  | 0#3 => .pointList
  | 1#3 => .lineList
  | 2#3 => .lineStrip
  | 3#3 => .triangleList
  | 4#3 => .triangleStrip
  | 5#3 => .triangleFan
  | 6#3 => .sprite
  | _ => match policy with
    | .asSprite => .sprite
    | .discard => .invalid

/-- `class(type)` (42_vertex_kick R300). -/
def Topology.cls : Topology → PrimClass
  | .pointList => .point
  | .lineList => .line
  | .lineStrip => .line
  | .triangleList => .triangle
  | .triangleStrip => .triangle
  | .triangleFan => .triangle
  | .sprite => .sprite
  | .invalid => .invalid

/-- `n(type)`: the vertices a primitive needs (42_vertex_kick R300). -/
def Topology.verts : Topology → Nat
  | .pointList => 1
  | .lineList => 2
  | .lineStrip => 2
  | .triangleList => 3
  | .triangleStrip => 3
  | .triangleFan => 3
  | .sprite => 2
  | .invalid => 1

/-- `group` (42_vertex_kick R300). -/
def Topology.group : Topology → Group
  | .pointList => .list
  | .lineList => .list
  | .lineStrip => .strip
  | .triangleList => .list
  | .triangleStrip => .strip
  | .triangleFan => .fan
  | .sprite => .list
  | .invalid => .discard

/-- AC: 1 puts PRIM's attribute fields in effect, 0 PRMODE's (10_state R39, R56). -/
def State.ac (s : State) : Bool := bit s.env.prmodecont 0

/-- The attribute fields in effect, at their PRIM positions minus 3 (10_state R39). -/
def State.attr (s : State) : BitVec 8 := if s.ac then bits s.env.prim 3 8 else bits s.env.prmode 3 8

/-- TME of the fields in effect. -/
def attrTme (a : BitVec 8) : Bool := bit a 1

/-- The active context: CTXT of the fields in effect (10_state R39). -/
def State.actx (s : State) : CtxId := if bit s.attr 6 then .c1 else .c0

/-- The topology in effect (10_state R39). -/
def State.topology (s : State) : Topology := topologyOf s.cfg.prim7 (bits s.env.prim 0 3)

/-- "The pending group is non-empty" (10_state R44). -/
def State.pending (s : State) : Bool := !s.vq.ibuf.isEmpty

/-- A fault or refusal holds, so the block takes no further step (10_state R51). -/
def State.stuck (s : State) : Bool := s.fault.isSome || s.refused.isSome

end Sys2Proof.Machine
end

