-- ==== Sys2Proof/Machine/Ops.lean ====
section
/-! DEFINITION. The shared operations: events, faults and refusals, power-on, register access, local memory and pixels. -/

namespace Sys2Proof.Machine

/-! ## Events, faults, refusals (00_scope R12, 60_exceptions) -/

/-- `emit E` (00_scope R12). -/
def emit (e : Event) (s : State) : State := { s with out := s.out ++ [e] }

/-- The rest of the feed call is not processed (40_gif_decoder R173, 60_exceptions R401). -/
def endFeed (s : State) : State := { s with feed := { s.feed with qwords := [], half := false } }

/-- `raise F`: the block's whole exception entry. It records the code and nothing else, and ends the feed call (60_exceptions R401,
R407); effects already made stay (R416). -/
def raise (f : Fault) (s : State) : State := endFeed { s with fault := some f }

/-- `refuse(reason)` (00_scope R12, 60_exceptions R400): it ends the feed call too. -/
def refuse (r : Refusal) (s : State) : State := endFeed { s with refused := some r }

/-- `PowerOn()`: every component of the block at its reset value, with a new free memory image (70 R430, 10_state R53). There is no
other return from a fault or a refusal (60_exceptions R408). The host's side (pending calls, renderer answers, returned blobs) and the
configuration are not the block's state (10_state R30) and stay. -/
def powerOn (s : State) : State :=
  { State.reset with
    mem := ⟨[], s.freeCount⟩, freeCount := s.freeCount + 1, cfg := s.cfg, calls := s.calls, replies := s.replies, blobs := s.blobs }

/-! ## Registers -/

/-- `env.reg <- v`, v in stored form. -/
def setEnv (r : EnvReg) (v : Word64) (s : State) : State := { s with env := s.env.set r v }

/-- `ctx[c].reg <- v`, v in stored form. -/
def setCtxReg (r : CtxReg) (c : CtxId) (v : Word64) (s : State) : State := s.setCtx c ((s.ctx c).set r v)

/-! ## Local memory (10_state R49, 20_memory R80, R89) -/

/-- The listed byte at an address. -/
def lookupCell : List Host.Cell → Nat → Option Byte
  | [], _ => none
  | (k, b) :: t, a => if k = a then some b else lookupCell t a

/-- The list with address `a` holding `b`, in its place in the rising order. -/
def insertCell : List Host.Cell → Nat → Byte → List Host.Cell
  | [], a, b => [(a, b)]
  | (k, v) :: t, a, b =>
    if a < k then (a, b) :: (k, v) :: t
    else if a = k then (a, b) :: t
    else (k, v) :: insertCell t a b

/-- Addresses strictly rising, from `lo` on and inside local memory. -/
def ascending (lo : Nat) : List Host.Cell → Bool
  | [] => true
  | (k, _) :: t => decide (lo ≤ k) && decide (k < Config.localMemBytes) && ascending (k + 1) t

/-- The canonical form. An unlisted address holds no value of its own, so no entry can equal it (log 5). -/
def Memory.wf (m : Memory) : Bool := ascending 0 m.cells

/-- `Mem[a]`, the address modulo the size (20_memory R89); a byte not listed is free. -/
def Memory.load (m : Memory) (a : Nat) : Byte :=
  (lookupCell m.cells (a % Config.localMemBytes)).getD (Config.freeMem m.epoch (a % Config.localMemBytes))

/-- `Mem[a] <- b`. -/
def Memory.store (m : Memory) (a : Nat) (b : Byte) : Memory := { m with cells := insertCell m.cells (a % Config.localMemBytes) b }

/-- Store bytes one after another, as the renderer's answer lists them. -/
def Memory.storeAll (m : Memory) (ws : List Host.Cell) : Memory := ws.foldl (fun m w => m.store w.1 w.2) m

/-! ## Pixel formats (30_encoding R165, 44_transfer R361) -/

/-- `TRBPP` and the storage width, equal in every row of the table; none for a code not listed (30_encoding R165). -/
def formatBits (psm : BitVec 6) : Option Nat :=
  match psm with
  | 0x00#6 => some 32
  | 0x01#6 => some 24
  | 0x02#6 => some 16
  | 0x0A#6 => some 16
  | 0x13#6 => some 8
  | 0x14#6 => some 4
  | 0x1B#6 => some 8
  | 0x24#6 => some 4
  | 0x2C#6 => some 4
  | 0x30#6 => some 32
  | 0x31#6 => some 24
  | 0x32#6 => some 16
  | 0x3A#6 => some 16
  | _ => none

/-- `psm'`: a code the table does not list is treated as PSMCT32 (44_transfer R361). -/
def knownPsm (psm : BitVec 6) : BitVec 6 := if (formatBits psm).isSome then psm else 0x00#6

/-- Bits of one pixel, in the transfer and in storage (30_encoding R165, 20_memory R88). -/
def pixelBits (psm : BitVec 6) : Nat := (formatBits psm).getD 32

/-! ## Pixel places (20_memory R86, R87) -/

def blockRows : List (List Nat) :=
  [[0, 1, 4, 5, 16, 17, 20, 21],
   [2, 3, 6, 7, 18, 19, 22, 23],
   [8, 9, 12, 13, 24, 25, 28, 29],
   [10, 11, 14, 15, 26, 27, 30, 31]]

def columnRows : List (List Nat) :=
  [[0, 1, 4, 5, 8, 9, 12, 13],
   [2, 3, 6, 7, 10, 11, 14, 15],
   [16, 17, 20, 21, 24, 25, 28, 29],
   [18, 19, 22, 23, 26, 27, 30, 31],
   [32, 33, 36, 37, 40, 41, 44, 45],
   [34, 35, 38, 39, 42, 43, 46, 47],
   [48, 49, 52, 53, 56, 57, 60, 61],
   [50, 51, 54, 55, 58, 59, 62, 63]]

/-- `BLOCK32[r][c]` and `COLUMN32[r][c]` (20_memory R87). -/
def block32 (r c : Nat) : Nat := (blockRows.getD r []).getD c 0
def column32 (r c : Nat) : Nat := (columnRows.getD r []).getD c 0

/-- The byte address of a pixel's word in the 32-bit formats (20_memory R86). -/
def word32 (bp bw x y : Nat) : Nat :=
  let blk := (bp + (y / 32) * bw * 32 + (x / 64) * 32 + block32 ((y / 8) % 4) ((x / 8) % 8)) % 16384
  4 * (blk * 64 + column32 (y % 8) (x % 8))

/-- `PIXEL_LOC` of a format whose layout is OPEN (20_memory R86): a word long enough for the pixel's bits (R88; log 9). -/
def openPixelLoc (psm : BitVec 6) (bp bw x y : Nat) : PixelLoc :=
  let place := Config.openPlace psm bp bw (x, y)
  ⟨place.1, place.2, (place.2 + pixelBits psm + 7) / 8 + Config.openWordSlack psm bp bw x y⟩

/-- `PIXEL_LOC`, the coordinates modulo 2048 (20_memory R86). -/
def pixelLoc (psm : BitVec 6) (bp bw x y : Nat) : PixelLoc :=
  let x := x % 2048
  let y := y % 2048
  match psm with
  | 0x00#6 => ⟨word32 bp bw x y, 0, 4⟩
  | 0x01#6 => ⟨word32 bp bw x y, 0, 4⟩
  | 0x1B#6 => ⟨word32 bp bw x y, 24, 4⟩
  | 0x24#6 => ⟨word32 bp bw x y, 24, 4⟩
  | 0x2C#6 => ⟨word32 bp bw x y, 28, 4⟩
  | _ => openPixelLoc psm bp bw x y

/-- Address `a` is a byte of a pixel's word (20_memory R88, R89). -/
def pixelCovers (loc : PixelLoc) (a : Nat) : Prop :=
  ∃ k < loc.bytes, a % Config.localMemBytes = (loc.addr + k) % Config.localMemBytes

/-! ## Pixel access (20_memory R88), byte by byte: a byte of the word that holds no bit of the pixel is not touched -/

/-- Byte k of the mask of bits `[lo+n-1 : lo]`. -/
def fieldMask (lo n k : Nat) : Byte := BitVec.ofNat 8 (((2 ^ n - 1) * 2 ^ lo) / 256 ^ k)

/-- The pixel's bits in byte k of its word, in place. -/
def fieldByte (m : Memory) (loc : PixelLoc) (n k : Nat) : Nat :=
  if fieldMask loc.lo n k = 0x00#8 then 0
  else if fieldMask loc.lo n k = 0xFF#8 then (m.load (loc.addr + k)).toNat * 256 ^ k
  else (m.load (loc.addr + k) &&& fieldMask loc.lo n k).toNat * 256 ^ k

/-- `MemRead(a, bytes)[lo+n-1 : lo]` (20_memory R88). -/
def readField (m : Memory) (loc : PixelLoc) (n : Nat) : BitVec 32 :=
  BitVec.ofNat 32 (((List.range loc.bytes).foldl (fun acc k => acc + fieldByte m loc n k) 0) / 2 ^ loc.lo)

/-- Byte k of the word with the pixel's bits replaced by `trunc_n(v)`. -/
def writeFieldByte (loc : PixelLoc) (n : Nat) (v : BitVec 32) (m : Memory) (k : Nat) : Memory :=
  let new : Byte := BitVec.ofNat 8 (((v.toNat % 2 ^ n) * 2 ^ loc.lo) / 256 ^ k)
  if fieldMask loc.lo n k = 0x00#8 then m
  else if fieldMask loc.lo n k = 0xFF#8 then m.store (loc.addr + k) new
  else m.store (loc.addr + k) ((m.load (loc.addr + k) &&& ~~~(fieldMask loc.lo n k)) ||| (new &&& fieldMask loc.lo n k))

/-- The word's read-modify-write (20_memory R88). -/
def writeField (m : Memory) (loc : PixelLoc) (n : Nat) (v : BitVec 32) : Memory :=
  (List.range loc.bytes).foldl (writeFieldByte loc n v) m

/-- `ReadPixel` (20_memory R88), the value zero-extended to 32 bits. -/
def readPixel (m : Memory) (psm : BitVec 6) (bp bw x y : Nat) : BitVec 32 :=
  readField m (pixelLoc psm bp bw x y) (pixelBits psm)

/-- `WritePixel` (20_memory R88). -/
def writePixel (m : Memory) (psm : BitVec 6) (bp bw x y : Nat) (v : BitVec 32) : Memory :=
  writeField m (pixelLoc psm bp bw x y) (pixelBits psm) v

end Sys2Proof.Machine
end

