-- ==== Sys2Proof/Machine/Flush.lean ====
section
/-! DEFINITION. Flush, the Draw and the carry-forward; the renderer's step (43_flush_draw). -/

namespace Sys2Proof.Machine

/-- `Snapshot()` (43_flush_draw R342). -/
def snapshot (s : State) : Snapshot := { env := s.env, ctx := s.ctx s.actx, actx := s.actx, attr := s.attr }

/-- The renderer's verdict on the next Draw: its answer's, or a free value where no answer is given (43_flush_draw R352; log 6). -/
def rendererVerdict (s : State) : Bool :=
  match s.replies with
  | [] => Config.rendererOk s.freeCount
  | r :: _ => r.ok

/-- Local memory after the next Draw: the answer's bytes stored, or a free memory image (43_flush_draw R352; log 6). -/
def rendererMem (s : State) : Memory :=
  match s.replies with
  | [] => ⟨[], s.freeCount⟩
  | r :: _ => s.mem.storeAll r.writes

/-- `RendererStep()` but for the verdict (43_flush_draw R352). -/
def rendererStep (s : State) : State :=
  { s with mem := rendererMem s, replies := s.replies.tail, freeCount := s.freeCount + 1 }

/-- The vertices a flush carries forward (43_flush_draw R344). -/
def carried (t : Topology) (q : VertexQueue) : List Vertex :=
  if q.vbuf.length ≤ q.head then []
  else if t = .triangleFan then
    if q.vbuf.length - 1 > q.head then (q.vbuf.drop q.head).take 1 ++ q.vbuf.drop (q.vbuf.length - 1)
    else (q.vbuf.drop q.head).take 1
  else q.vbuf.drop q.head

/-- `CarryForward()` (43_flush_draw R344). -/
def carryForward (t : Topology) (q : VertexQueue) : VertexQueue :=
  { vbuf := carried t q, ibuf := [], head := 0, next := min (q.next - q.head) (carried t q).length }

/-- The events of one flush: the Draw, then the error if the verdict is not ok (43_flush_draw R343, R354). -/
def drawEvents (s : State) : List Event :=
  .draw (snapshot s) s.vq.vbuf s.vq.ibuf s.topology.cls ::
    (if rendererVerdict s then [] else [.error .rendererFailed])

/-- A flush with a group pending. `XferFlush` has no effect (44_transfer R380), so it has no text here. -/
def drawPending (s : State) : State :=
  { rendererStep s with out := s.out ++ drawEvents s, vq := carryForward s.topology s.vq }

/-- `Flush()`: nothing when no group is pending (43_flush_draw R340). -/
def flush (s : State) : State := if s.pending then drawPending s else s

end Sys2Proof.Machine
end

