-- ==== Sys2Proof/Machine/Kick.lean ====
section
/-! DEFINITION. The vertex kick (42_vertex_kick). -/

namespace Sys2Proof.Machine

/-! ## The window (42_vertex_kick R304, R305) -/

def Window.get (w : Window) (i : Fin 4) : XY :=
  match i with
  | 0 => w.e0
  | 1 => w.e1
  | 2 => w.e2
  | 3 => w.e3

/-- Write the newest entry and count the kick (42_vertex_kick R302 step 2). -/
def Window.push (w : Window) (e : XY) : Window :=
  match w.count with
  | 0 => { w with e0 := e, count := 1 }
  | 1 => { w with e1 := e, count := 2 }
  | 2 => { w with e2 := e, count := 3 }
  | 3 => { w with e3 := e, count := 0 }

/-- The entry k kicks back, k = 1 the newest: N1, N2, N3 and H (42_vertex_kick R305). -/
def Window.back (w : Window) (k : Nat) : XY := w.get (w.count - Fin.ofNat 4 k)

/-- Scissor-relative position under a context's offset (42_vertex_kick R304). -/
def relativeXY (c : Ctx) (x y : BitVec 16) : XY := ⟨(x.toNat : Int) - ofx c, (y.toNat : Int) - ofy c⟩

/-! ## Trivial rejection (42_vertex_kick R305 to R307) -/

/-- `W(t, m)`: the points a test looks at (42_vertex_kick R305). -/
def testPoints (w : Window) (t : Topology) (m : Nat) : List XY :=
  match t with
  | .pointList => [w.back 1]
  | .lineList | .lineStrip | .sprite => [w.back 2, w.back 1]
  | .triangleList | .triangleStrip => [w.back 3, w.back 2, w.back 1]
  | .triangleFan => [w.back m, w.back 2, w.back 1]
  | .invalid => []

/-- `SCISSOR_BOX` of a context (42_vertex_kick R306). -/
def scissorBox (formula : Formula) (c : Ctx) : Box :=
  match formula with
  | .standard => ⟨16 * scax0 c, 16 * scax1 c + 15, 16 * scay0 c, 16 * scay1 c + 15⟩
  | .other n => Config.otherScissorBox n c

/-- bx0 > bx1 or by0 > by1: no point lies inside (42_vertex_kick R307, 90 C8). -/
def Box.empty (b : Box) : Bool := b.x1 < b.x0 || b.y1 < b.y0

/-- The bounding box of the points does not meet the box: all of them lie to one side of it (42_vertex_kick R307). -/
def fullyOutside (b : Box) (ps : List XY) : Bool :=
  ps.all (fun p => p.sx < b.x0) || ps.all (fun p => b.x1 < p.sx) || ps.all (fun p => p.sy < b.y0) || ps.all (fun p => b.y1 < p.sy)

/-- Two entries are equal in both coordinates (42_vertex_kick R307, `pair_equal`). -/
def pairEqual : List XY → Bool
  | [] => false
  | p :: ps => ps.contains p || pairEqual ps

/-- The points have one x, or one y. DEDUCED (log 11): the spec names the alternative and gives no formula. -/
def zeroExtent : List XY → Bool
  | [] => false
  | p :: ps => ps.all (fun q => q.sx == p.sx) || ps.all (fun q => q.sy == p.sy)

/-- `DEGENERATE_TEST` (00_scope R7). -/
def degenerate (policy : DegenerateTest) (ps : List XY) : Bool :=
  match policy with
  | .pairEqual => pairEqual ps
  | .pairEqualOrZeroExtent => pairEqual ps || zeroExtent ps

/-- Only triangles and sprites can be degenerate (42_vertex_kick R307). -/
def PrimClass.testsDegenerate : PrimClass → Bool
  | .triangle => true
  | .sprite => true
  | _ => false

/-- `Reject(t, c, m)` (42_vertex_kick R307); type 7 under `discard` drops every vertex (R300, log 12). -/
def reject (s : State) (t : Topology) (m : Nat) : Bool :=
  let ps := testPoints s.win t m
  let b := scissorBox s.cfg.scissorBox (s.ctx s.actx)
  if t = .invalid then true
  else if t = .triangleFan && m > 4 then false
  else b.empty || fullyOutside b ps || (t.cls.testsDegenerate && degenerate s.cfg.degenerate ps)

/-! ## The vertex queue (42_vertex_kick R308, R309; 41_register_dispatch R230) -/

def VertexQueue.append (q : VertexQueue) (v : Vertex) : VertexQueue := { q with vbuf := q.vbuf ++ [v] }

/-- `m`, the live window `head..tail` (42_vertex_kick R302 step 3). -/
def VertexQueue.live (q : VertexQueue) : Nat := q.vbuf.length - q.head

/-- `OnReject(t)` (42_vertex_kick R308). -/
def VertexQueue.reject (q : VertexQueue) (t : Topology) : VertexQueue :=
  match t.group with
  | .list | .discard => { q with vbuf := q.vbuf.take q.head }
  | .strip => { q with head := q.head + 1 }
  | .fan => q

/-- A strip whose `head` has passed `next` moves its n live vertices down to `next` (42_vertex_kick R309). -/
def VertexQueue.compact (q : VertexQueue) (n : Nat) : VertexQueue :=
  if q.next < q.head then { q with vbuf := q.vbuf.take q.next ++ (q.vbuf.drop q.head).take n, head := q.next } else q

/-- `n` indices from `head` on, which advances by `step`, as does `next` to the end of them. -/
def VertexQueue.emitRun (q : VertexQueue) (n step : Nat) : VertexQueue :=
  { q with ibuf := q.ibuf ++ List.range' q.head n, head := q.head + step, next := q.head + n }

/-- `OnAccept(t)` after its capacity check (42_vertex_kick R309). -/
def VertexQueue.accept (q : VertexQueue) (t : Topology) : VertexQueue :=
  match t with
  | .pointList => q.emitRun 1 1
  | .lineList | .sprite => q.emitRun 2 2
  | .triangleList => q.emitRun 3 3
  | .lineStrip => (q.compact 2).emitRun 2 1
  | .triangleStrip => (q.compact 3).emitRun 3 1
  | .triangleFan =>
    { q with ibuf := q.ibuf ++ [q.head, q.vbuf.length - 2, q.vbuf.length - 1], next := q.vbuf.length }
  | .invalid => q

/-- The restart of vertex assembly at a PRIM write (41_register_dispatch R230). -/
def VertexQueue.restart (q : VertexQueue) : VertexQueue :=
  if q.ibuf = [] then { q with vbuf := [], head := 0, next := 0 }
  else { q with vbuf := q.vbuf.take q.next, head := q.next }

/-! ## The kick -/

/-- A length is over a capacity (42_vertex_kick R310). -/
def exceeds (cap : Option Nat) (n : Nat) : Bool :=
  match cap with
  | none => false
  | some c => c < n

/-- `HAZARD` of a context and the attributes in effect (42_vertex_kick R311). -/
def hazardOf (formula : Formula) (c : Ctx) (attr : BitVec 8) : Bool :=
  match formula with
  | .standard => attrTme attr && 32 * fbp c == tbp0 c
  | .other n => Config.otherHazard n c attr

/-- `HAZARD(actx)` (42_vertex_kick R311). -/
def hazard (s : State) : Bool := hazardOf s.cfg.hazard (s.ctx s.actx) s.attr

/-- Steps 1 and 2: the vertex, with the sticky attributes, and its window entry (42_vertex_kick R302). -/
def pushVertex (x y : BitVec 16) (z : BitVec 32) (s : State) : State :=
  { s with vq := s.vq.append ⟨x, y, z, s.vacc⟩, win := s.win.push (relativeXY (s.ctx s.actx) x y) }

/-- Steps 5 to 7 once a primitive is complete (42_vertex_kick R302). -/
def resolvePrimitive (skip : Bool) (s : State) : State :=
  if skip || reject s s.topology s.vq.live then { s with vq := s.vq.reject s.topology }
  else if exceeds s.cfg.ibufMax (s.vq.ibuf.length + s.topology.verts) then raise .bufferExhausted s
  else if s.cfg.autoFlush && hazard s then flush { s with vq := s.vq.accept s.topology }
  else { s with vq := s.vq.accept s.topology }

/-- `Kick(X, Y, Z, skip)` (42_vertex_kick R302, R310). -/
def kick (x y : BitVec 16) (z : BitVec 32) (skip : Bool) (s : State) : State :=
  if exceeds s.cfg.vbufMax (s.vq.vbuf.length + 1) then raise .bufferExhausted s
  else if (pushVertex x y z s).vq.live < s.topology.verts then pushVertex x y z s
  else resolvePrimitive skip (pushVertex x y z s)

end Sys2Proof.Machine
end

