-- ==== Sys2Proof/Machine/Transfer.lean ====
section
/-! DEFINITION. The local-memory transfer engine (44_transfer). -/

namespace Sys2Proof.Machine

/-! ## The rectangle -/

/-- Where pixel (cx, cy) of a rectangle with corner (x0, y0) lies, modulo 2048 (44_transfer R364). -/
def rectX (x0 cx : Nat) : Nat := (x0 + cx) % 2048
def rectY (y0 cy : Nat) : Nat := (y0 + cy) % 2048

/-- Source and destination rectangles of the latched registers (44_transfer R381). -/
def Xfer.srcRect (x : Xfer) : Rect := ⟨ssax x.pos, ssay x.pos, x.w, x.h⟩
def Xfer.dstRect (x : Xfer) : Rect := ⟨dsax x.pos, dsay x.pos, x.w, x.h⟩

/-- `Total()` (44_transfer R365). -/
def totalBytes (cap w h bpp : Nat) : Nat := min ((w * h * bpp + 7) / 8) cap

/-- The cursor one pixel on, in raster order (44_transfer R364, R367). -/
def Xfer.advance (x : Xfer) : Xfer :=
  if x.cx + 1 = x.w then { x with cx := 0, cy := x.cy + 1 } else { x with cx := x.cx + 1 }

/-- `Finish()` (44_transfer R369). -/
def Xfer.finish (x : Xfer) : Xfer := { x with mode := .idle, pbits := 0, pcount := 0 }

/-- `Finish()` once every byte is through (44_transfer R366, R377). -/
def Xfer.finishIfDone (x : Xfer) : Xfer := if x.done = x.total then x.finish else x

/-! ## Write (44_transfer R366, R367) -/

/-- `CommitPixel(v)` (44_transfer R367). -/
def commitPixel (v : BitVec 32) (s : State) : State :=
  if s.xfer.h ≤ s.xfer.cy then s
  else
    { flush s with
      mem := writePixel (flush s).mem (knownPsm (dpsm s.xfer.blit)) (dbp s.xfer.blit) (dbw s.xfer.blit)
        (rectX (dsax s.xfer.pos) s.xfer.cx) (rectY (dsay s.xfer.pos) s.xfer.cy) v
      xfer := s.xfer.advance }

/-- The low bpp pending bits, one pixel's value. -/
def Xfer.pixelValue (x : Xfer) : BitVec 32 := BitVec.ofNat 32 (x.pbits.toNat % 2 ^ x.bpp)

/-- Drop the low n pending bits. -/
def Xfer.dropBits (x : Xfer) (n : Nat) : Xfer := { x with pbits := x.pbits >>> n, pcount := x.pcount - n }

/-- `while pcount >= bpp` of R366, and whether it committed. A bpp of 0, which no armed Write has, ends the loop (log 15). -/
def commitLoop : Nat → State × Bool → State × Bool
  | 0, sw => sw
  | k + 1, (s, wrote) =>
    if 0 < s.xfer.bpp ∧ s.xfer.bpp ≤ s.xfer.pcount then
      let s' := commitPixel s.xfer.pixelValue s
      commitLoop k ({ s' with xfer := s'.xfer.dropBits s.xfer.bpp }, true)
    else (s, wrote)

/-- A byte joins the pending bits (44_transfer R366). -/
def Xfer.takeByte (x : Xfer) (b : Byte) : Xfer :=
  { x with done := x.done + 1, pbits := x.pbits ||| (b.setWidth 39 <<< x.pcount), pcount := x.pcount + 8 }

/-- A Write that can take a byte (44_transfer R366). -/
def Xfer.takesByte (x : Xfer) : Bool := x.mode == .write && x.done < x.total

/-- A dropped byte (44_transfer R372). -/
def dropByte (s : State) : State :=
  if s.xfer.overflow then s else emit (.log .transferOverflow) { s with xfer := { s.xfer with overflow := true } }

/-- One byte of transfer data (44_transfer R366). -/
def xferByte (sw : State × Bool) (b : Byte) : State × Bool :=
  if sw.1.xfer.takesByte then
    let r := commitLoop (sw.1.xfer.pcount + 8) ({ sw.1 with xfer := sw.1.xfer.takeByte b }, sw.2)
    ({ r.1 with xfer := r.1.xfer.finishIfDone }, r.2)
  else (dropByte sw.1, sw.2)

/-- `XferData(bytes)` (44_transfer R366). -/
def xferData (bytes : List Byte) (s : State) : State :=
  let r := bytes.foldl xferByte (s, false)
  if r.2 then emit (.invalidateVideoMem s.xfer.blit s.xfer.dstRect) r.1 else r.1

/-! ## Move (44_transfer R374 to R376) -/

/-- `MOVE_CONVERT` (44_transfer R376). The default: v, or v truncated to or zero-extended to the destination width. Another parameter
converts "between different formats" (00_scope R7): in one format it keeps v, as the corner case of R374 needs. DEDUCED (log 17). -/
def moveConvert (formula : Formula) (sp dp : BitVec 6) (v : BitVec 32) : BitVec 32 :=
  match formula with
  | .standard => if pixelBits sp = pixelBits dp then v else BitVec.ofNat 32 (v.toNat % 2 ^ pixelBits dp)
  | .other n => if sp = dp then v else Config.otherMoveConvert n sp dp v

/-- 0, 1, .., n-1 or its reverse (44_transfer R374). -/
def moveOrder (decreasing : Bool) (n : Nat) : List Nat := if decreasing then (List.range n).reverse else List.range n

/-- The pixels of a Move in its order: rows in the DIRY order, each in the DIRX order (44_transfer R374). -/
def movePixels (x : Xfer) : List (Nat × Nat) :=
  (moveOrder (diry x.pos) x.h).flatMap fun j => (moveOrder (dirx x.pos) x.w).map fun i => (i, j)

/-- Copy pixel (i, j) of the rectangle (44_transfer R374). -/
def movePixel (formula : Formula) (x : Xfer) (m : Memory) (ij : Nat × Nat) : Memory :=
  writePixel m (knownPsm (dpsm x.blit)) (dbp x.blit) (dbw x.blit) (rectX (dsax x.pos) ij.1) (rectY (dsay x.pos) ij.2)
    (moveConvert formula (knownPsm (spsm x.blit)) (knownPsm (dpsm x.blit))
      (readPixel m (knownPsm (spsm x.blit)) (sbp x.blit) (sbw x.blit) (rectX (ssax x.pos) ij.1) (rectY (ssay x.pos) ij.2)))

/-- Local memory after a Move. -/
def movedMem (formula : Formula) (x : Xfer) (m : Memory) : Memory := (movePixels x).foldl (movePixel formula x) m

/-- `Move()` (44_transfer R374). -/
def move (s : State) : State :=
  let s1 := emit (.invalidateLocalMem s.xfer.blit s.xfer.srcRect) (flush s)
  emit (.invalidateVideoMem s.xfer.blit s.xfer.dstRect) { s1 with mem := movedMem s.cfg.moveConvert s.xfer s1.mem }

/-! ## Starting a transfer (44_transfer R362) -/

/-- The latching, the same for every direction (44_transfer R362). -/
def Xfer.latch (x : Xfer) (e : Env) : Xfer :=
  { x with mode := .idle, overflow := false, pbits := 0, pcount := 0, cx := 0, cy := 0, done := 0,
           blit := e.bitbltbuf, pos := e.trxpos, w := max (rrw e.trxreg) 1, h := max (rrh e.trxreg) 1 }

/-- Arm a direction with the bits per pixel of its format (44_transfer R362, R365). -/
def Xfer.arm (x : Xfer) (mode : XferMode) (psm : BitVec 6) (cap : Nat) : Xfer :=
  { x with mode := mode, bpp := pixelBits (knownPsm psm), total := totalBytes cap x.w x.h (pixelBits (knownPsm psm)) }

/-- `TransferStart(x)` (44_transfer R362). -/
def transferStart (x : BitVec 2) (s : State) : State :=
  let l := s.xfer.latch s.env
  match x with
  | 0#2 => { s with xfer := l.arm .write (dpsm l.blit) s.cfg.stagingCap }
  | 1#2 => emit (.invalidateLocalMem l.blit l.srcRect) { s with xfer := l.arm .read (spsm l.blit) s.cfg.stagingCap }
  | 2#2 => move { s with xfer := l }
  | _ => { s with xfer := l }

/-! ## Read (44_transfer R377 to R379) -/

/-- Bits of a pixel join the pending bits (44_transfer R377). -/
def Xfer.takePixel (x : Xfer) (v : BitVec 32) : Xfer :=
  { x with pbits := x.pbits ||| (v.setWidth 39 <<< x.pcount), pcount := x.pcount + x.bpp }

/-- Read the next pixel of the rectangle (44_transfer R377). -/
def fetchPixel (s : State) : State :=
  { flush s with
    xfer := (s.xfer.takePixel (readPixel (flush s).mem (knownPsm (spsm s.xfer.blit)) (sbp s.xfer.blit) (sbw s.xfer.blit)
      (rectX (ssax s.xfer.pos) s.xfer.cx) (rectY (ssay s.xfer.pos) s.xfer.cy))).advance }

/-- `while pcount < 8` of R377; with a bpp of 4 or more, two rounds end it (log 15). -/
def fillLoop : Nat → State → State
  | 0, s => s
  | k + 1, s =>
    if s.xfer.pcount < 8 then
      fillLoop k (if s.xfer.cy < s.xfer.h then fetchPixel s else { s with xfer := { s.xfer with pcount := 8 } })
    else s

/-- A Read that can give a byte (44_transfer R377). -/
def Xfer.givesByte (x : Xfer) : Bool := x.mode == .read && x.done < x.total

/-- One byte of a ReadFIFO call; a byte past the Read is free (44_transfer R377, R378). -/
def readByte (s : State) : State × Byte :=
  if s.xfer.givesByte then
    let s1 := fillLoop 8 s
    ({ s1 with xfer := { s1.xfer.dropBits 8 with done := s1.xfer.done + 1 }.finishIfDone }, bits s1.xfer.pbits 0 8)
  else ({ s with freeCount := s.freeCount + 1 }, Config.freeReadByte s.freeCount)

/-- n bytes, in order. -/
def readBytes : Nat → State → State × List Byte
  | 0, s => (s, [])
  | n + 1, s =>
    let r := readByte s
    let rest := readBytes n r.1
    (rest.1, r.2 :: rest.2)

/-- `ReadFIFO(n)` (44_transfer R377). -/
def readFIFO (n : Nat) (s : State) : State :=
  let r := readBytes (16 * n) s
  emit (.readData r.2) r.1

end Sys2Proof.Machine
end

