-- ==== Sys2Proof/Machine/Write.lean ====
section
/-! DEFINITION. The shared bodies of the register writes (41_register_dispatch). -/

namespace Sys2Proof.Machine

/-- `CAWrite(reg, E, v)` (41_register_dispatch R222). -/
def caWriteEnv (r : EnvReg) (v : Word64) (s : State) : State :=
  if r.stored v ≠ s.env.get r then setEnv r (r.stored v) (flush s) else setEnv r (r.stored v) s

/-- `CAWrite(reg, c, v)` for a context register (41_register_dispatch R222): only the active context's change flushes. -/
def caWriteCtx (r : CtxReg) (c : CtxId) (v : Word64) (s : State) : State :=
  if r.stored v ≠ (s.ctx c).get r ∧ c = s.actx then setCtxReg r c (r.stored v) (flush s) else setCtxReg r c (r.stored v) s

/-- A TEX2 write: TEX0 of its context, merged (41_register_dispatch R245). -/
def tex2Write (c : CtxId) (v : Word64) (s : State) : State := caWriteCtx .tex0 c (tex2Merge (s.ctx c).tex0 v) s

/-- PRMODE flushes only while its fields are in effect (41_register_dispatch R250). -/
def prmodeWrite (v : Word64) (s : State) : State :=
  if EnvReg.prmode.stored v ≠ s.env.prmode ∧ s.ac = false then setEnv .prmode (EnvReg.prmode.stored v) (flush s)
  else setEnv .prmode (EnvReg.prmode.stored v) s

/-- The flush check of a PRIM write: the class changes, or with AC = 1 an attribute bit does (41_register_dispatch R230). -/
def primFlushes (v : BitVec 11) (s : State) : Bool :=
  ((topologyOf s.cfg.prim7 (bits v 0 3)).cls != s.topology.cls) || (s.ac && bits v 3 8 != bits s.env.prim 3 8)

/-- `ApplyPRIM(v)` (41_register_dispatch R230). -/
def applyPrim (v : BitVec 11) (s : State) : State :=
  let s1 := if primFlushes v s then flush s else s
  { setEnv .prim (v.setWidth 64) s1 with vq := s1.vq.restart }

/-- RGBAQ (41_register_dispatch R231). -/
def rgbaqWrite (v : Word64) (s : State) : State :=
  { s with vacc := s.vacc.setRgba (bits v 0 8) (bits v 8 8) (bits v 16 8) (bits v 24 8) (bits v 32 32) }

/-- ST (41_register_dispatch R232). -/
def stWrite (v : Word64) (s : State) : State := { s with vacc := s.vacc.setSt (bits v 0 32) (bits v 32 32) }

/-- `UV_ROUND` when the option is 1, the identity when it is 0 (00_scope R7). -/
def roundUv (alt : Bool) (u v : BitVec 14) : BitVec 14 × BitVec 14 := if alt then Config.uvRound u v else (u, v)

/-- A UV write, through either layout (41_register_dispatch R233, 40_gif_decoder R183). -/
def uvSet (u v : BitVec 14) (s : State) : State :=
  { s with vacc := s.vacc.setUv (roundUv s.cfg.altUvRounding u v).1 (roundUv s.cfg.altUvRounding u v).2 }

/-- FOG (41_register_dispatch R240, 40_gif_decoder R190). -/
def fogSet (f : BitVec 8) (s : State) : State := { s with vacc := s.vacc.setFog f }

/-- A position register with F: no effect at all when kicks are disabled (41_register_dispatch R227, R234). -/
def xyzfWrite (x y : BitVec 16) (z : BitVec 24) (f : BitVec 8) (skip : Bool) (s : State) : State :=
  if s.cfg.kickEnabled then kick x y (z.setWidth 32) skip (fogSet f s) else s

/-- A position register without F (41_register_dispatch R227, R235). -/
def xyzWrite (x y : BitVec 16) (z : BitVec 32) (skip : Bool) (s : State) : State :=
  if s.cfg.kickEnabled then kick x y z skip s else s

/-- The 64-bit XYZF layout (10_state R79). -/
def xyzfValue (v : Word64) (skip : Bool) (s : State) : State :=
  xyzfWrite (bits v 0 16) (bits v 16 16) (bits v 32 24) (bits v 56 8) skip s

/-- The 64-bit XYZ layout (10_state R79). -/
def xyzValue (v : Word64) (skip : Bool) (s : State) : State := xyzWrite (bits v 0 16) (bits v 16 16) (bits v 32 32) skip s

/-- TRXDIR: every write flushes and starts an action (41_register_dispatch R279). -/
def trxdirWrite (v : Word64) (s : State) : State :=
  let s1 := setEnv .trxdir (EnvReg.trxdir.stored v) (flush s)
  transferStart (xdir s1.env.trxdir) s1

/-- HWREG: 8 bytes of transfer data, low byte first (41_register_dispatch R280, 20_memory R81). -/
def hwregWrite (v : Word64) (s : State) : State := xferData (bytesOf 8 v) s

end Sys2Proof.Machine
end

