-- ==== Sys2Proof/Machine/Ad.lean ====
section
/-! DEFINITION. The AD rows: one meaning for each assigned register address (41_register_dispatch R230 to R283), and the dispatch
`WriteReg` that every route of a register write goes through (R220). -/

namespace Sys2Proof.Machine

/-- AD.PRIM (R230). -/
def execAdPrim (v : Word64) (s : State) : Host.Outcome State Fault Refusal := .next (applyPrim (bits v 0 11) s)

/-- AD.RGBAQ (R231). -/
def execAdRgbaq (v : Word64) (s : State) : Host.Outcome State Fault Refusal := .next (rgbaqWrite v s)

/-- AD.ST (R232). -/
def execAdSt (v : Word64) (s : State) : Host.Outcome State Fault Refusal := .next (stWrite v s)

/-- AD.UV (R233). -/
def execAdUv (v : Word64) (s : State) : Host.Outcome State Fault Refusal := .next (uvSet (bits v 0 14) (bits v 16 14) s)

/-- AD.XYZF2 (R234). -/
def execAdXyzf2 (v : Word64) (s : State) : Host.Outcome State Fault Refusal := .next (xyzfValue v false s)

/-- AD.XYZ2 (R235). -/
def execAdXyz2 (v : Word64) (s : State) : Host.Outcome State Fault Refusal := .next (xyzValue v false s)

/-- AD.TEX0_1 (R236). -/
def execAdTex0_1 (v : Word64) (s : State) : Host.Outcome State Fault Refusal := .next (caWriteCtx .tex0 .c0 v s)

/-- AD.TEX0_2 (R237). -/
def execAdTex0_2 (v : Word64) (s : State) : Host.Outcome State Fault Refusal := .next (caWriteCtx .tex0 .c1 v s)

/-- AD.CLAMP_1 (R238). -/
def execAdClamp_1 (v : Word64) (s : State) : Host.Outcome State Fault Refusal := .next (caWriteCtx .clamp .c0 v s)

/-- AD.CLAMP_2 (R239). -/
def execAdClamp_2 (v : Word64) (s : State) : Host.Outcome State Fault Refusal := .next (caWriteCtx .clamp .c1 v s)

/-- AD.FOG (R240). -/
def execAdFog (v : Word64) (s : State) : Host.Outcome State Fault Refusal := .next (fogSet (bits v 56 8) s)

/-- AD.XYZF3 (R241). -/
def execAdXyzf3 (v : Word64) (s : State) : Host.Outcome State Fault Refusal := .next (xyzfValue v true s)

/-- AD.XYZ3 (R242). -/
def execAdXyz3 (v : Word64) (s : State) : Host.Outcome State Fault Refusal := .next (xyzValue v true s)

/-- AD.TEX1_1 (R243). -/
def execAdTex1_1 (v : Word64) (s : State) : Host.Outcome State Fault Refusal := .next (caWriteCtx .tex1 .c0 v s)

/-- AD.TEX1_2 (R244). -/
def execAdTex1_2 (v : Word64) (s : State) : Host.Outcome State Fault Refusal := .next (caWriteCtx .tex1 .c1 v s)

/-- AD.TEX2_1 (R245). -/
def execAdTex2_1 (v : Word64) (s : State) : Host.Outcome State Fault Refusal := .next (tex2Write .c0 v s)

/-- AD.TEX2_2 (R246). -/
def execAdTex2_2 (v : Word64) (s : State) : Host.Outcome State Fault Refusal := .next (tex2Write .c1 v s)

/-- AD.XYOFFSET_1 (R247). -/
def execAdXyoffset_1 (v : Word64) (s : State) : Host.Outcome State Fault Refusal := .next (caWriteCtx .xyoffset .c0 v s)

/-- AD.XYOFFSET_2 (R248). -/
def execAdXyoffset_2 (v : Word64) (s : State) : Host.Outcome State Fault Refusal := .next (caWriteCtx .xyoffset .c1 v s)

/-- AD.PRMODECONT (R249). -/
def execAdPrmodecont (v : Word64) (s : State) : Host.Outcome State Fault Refusal := .next (caWriteEnv .prmodecont v s)

/-- AD.PRMODE (R250). -/
def execAdPrmode (v : Word64) (s : State) : Host.Outcome State Fault Refusal := .next (prmodeWrite v s)

/-- AD.TEXCLUT (R251). -/
def execAdTexclut (v : Word64) (s : State) : Host.Outcome State Fault Refusal := .next (caWriteEnv .texclut v s)

/-- AD.SCANMSK (R252). -/
def execAdScanmsk (v : Word64) (s : State) : Host.Outcome State Fault Refusal := .next (caWriteEnv .scanmsk v s)

/-- AD.MIPTBP1_1 (R253). -/
def execAdMiptbp1_1 (v : Word64) (s : State) : Host.Outcome State Fault Refusal := .next (caWriteCtx .miptbp1 .c0 v s)

/-- AD.MIPTBP1_2 (R254). -/
def execAdMiptbp1_2 (v : Word64) (s : State) : Host.Outcome State Fault Refusal := .next (caWriteCtx .miptbp1 .c1 v s)

/-- AD.MIPTBP2_1 (R255). -/
def execAdMiptbp2_1 (v : Word64) (s : State) : Host.Outcome State Fault Refusal := .next (caWriteCtx .miptbp2 .c0 v s)

/-- AD.MIPTBP2_2 (R256). -/
def execAdMiptbp2_2 (v : Word64) (s : State) : Host.Outcome State Fault Refusal := .next (caWriteCtx .miptbp2 .c1 v s)

/-- AD.TEXA (R257). -/
def execAdTexa (v : Word64) (s : State) : Host.Outcome State Fault Refusal := .next (caWriteEnv .texa v s)

/-- AD.FOGCOL (R258). -/
def execAdFogcol (v : Word64) (s : State) : Host.Outcome State Fault Refusal := .next (caWriteEnv .fogcol v s)

/-- AD.TEXFLUSH (R259): no effect. -/
def execAdTexflush (_v : Word64) (s : State) : Host.Outcome State Fault Refusal := .next s

/-- AD.SCISSOR_1 (R260). -/
def execAdScissor_1 (v : Word64) (s : State) : Host.Outcome State Fault Refusal := .next (caWriteCtx .scissor .c0 v s)

/-- AD.SCISSOR_2 (R261). -/
def execAdScissor_2 (v : Word64) (s : State) : Host.Outcome State Fault Refusal := .next (caWriteCtx .scissor .c1 v s)

/-- AD.ALPHA_1 (R262). -/
def execAdAlpha_1 (v : Word64) (s : State) : Host.Outcome State Fault Refusal := .next (caWriteCtx .alpha .c0 v s)

/-- AD.ALPHA_2 (R263). -/
def execAdAlpha_2 (v : Word64) (s : State) : Host.Outcome State Fault Refusal := .next (caWriteCtx .alpha .c1 v s)

/-- AD.DIMX (R264). -/
def execAdDimx (v : Word64) (s : State) : Host.Outcome State Fault Refusal := .next (caWriteEnv .dimx v s)

/-- AD.DTHE (R265). -/
def execAdDthe (v : Word64) (s : State) : Host.Outcome State Fault Refusal := .next (caWriteEnv .dthe v s)

/-- AD.COLCLAMP (R266). -/
def execAdColclamp (v : Word64) (s : State) : Host.Outcome State Fault Refusal := .next (caWriteEnv .colclamp v s)

/-- AD.TEST_1 (R267). -/
def execAdTest_1 (v : Word64) (s : State) : Host.Outcome State Fault Refusal := .next (caWriteCtx .test .c0 v s)

/-- AD.TEST_2 (R268). -/
def execAdTest_2 (v : Word64) (s : State) : Host.Outcome State Fault Refusal := .next (caWriteCtx .test .c1 v s)

/-- AD.PABE (R269). -/
def execAdPabe (v : Word64) (s : State) : Host.Outcome State Fault Refusal := .next (caWriteEnv .pabe v s)

/-- AD.FBA_1 (R270). -/
def execAdFba_1 (v : Word64) (s : State) : Host.Outcome State Fault Refusal := .next (caWriteCtx .fba .c0 v s)

/-- AD.FBA_2 (R271). -/
def execAdFba_2 (v : Word64) (s : State) : Host.Outcome State Fault Refusal := .next (caWriteCtx .fba .c1 v s)

/-- AD.FRAME_1 (R272). -/
def execAdFrame_1 (v : Word64) (s : State) : Host.Outcome State Fault Refusal := .next (caWriteCtx .frame .c0 v s)

/-- AD.FRAME_2 (R273). -/
def execAdFrame_2 (v : Word64) (s : State) : Host.Outcome State Fault Refusal := .next (caWriteCtx .frame .c1 v s)

/-- AD.ZBUF_1 (R274). -/
def execAdZbuf_1 (v : Word64) (s : State) : Host.Outcome State Fault Refusal := .next (caWriteCtx .zbuf .c0 v s)

/-- AD.ZBUF_2 (R275). -/
def execAdZbuf_2 (v : Word64) (s : State) : Host.Outcome State Fault Refusal := .next (caWriteCtx .zbuf .c1 v s)

/-- AD.BITBLTBUF (R276). -/
def execAdBitbltbuf (v : Word64) (s : State) : Host.Outcome State Fault Refusal := .next (caWriteEnv .bitbltbuf v s)

/-- AD.TRXPOS (R277). -/
def execAdTrxpos (v : Word64) (s : State) : Host.Outcome State Fault Refusal := .next (caWriteEnv .trxpos v s)

/-- AD.TRXREG (R278). -/
def execAdTrxreg (v : Word64) (s : State) : Host.Outcome State Fault Refusal := .next (caWriteEnv .trxreg v s)

/-- AD.TRXDIR (R279). -/
def execAdTrxdir (v : Word64) (s : State) : Host.Outcome State Fault Refusal := .next (trxdirWrite v s)

/-- AD.HWREG (R280). -/
def execAdHwreg (v : Word64) (s : State) : Host.Outcome State Fault Refusal := .next (hwregWrite v s)

/-- AD.SIGNAL (R281): no effect. -/
def execAdSignal (_v : Word64) (s : State) : Host.Outcome State Fault Refusal := .next s

/-- AD.FINISH (R282): no effect. -/
def execAdFinish (_v : Word64) (s : State) : Host.Outcome State Fault Refusal := .next s

/-- AD.LABEL (R283): no effect. -/
def execAdLabel (_v : Word64) (s : State) : Host.Outcome State Fault Refusal := .next s

/-- `WriteReg(addr, v)` (41_register_dispatch R220); an unassigned address has no effect (R284). -/
def writeReg (addr : BitVec 7) (v : Word64) (s : State) : Host.Outcome State Fault Refusal :=
  match addr with
  | 0x00#7 => execAdPrim v s
  | 0x01#7 => execAdRgbaq v s
  | 0x02#7 => execAdSt v s
  | 0x03#7 => execAdUv v s
  | 0x04#7 => execAdXyzf2 v s
  | 0x05#7 => execAdXyz2 v s
  | 0x06#7 => execAdTex0_1 v s
  | 0x07#7 => execAdTex0_2 v s
  | 0x08#7 => execAdClamp_1 v s
  | 0x09#7 => execAdClamp_2 v s
  | 0x0A#7 => execAdFog v s
  | 0x0C#7 => execAdXyzf3 v s
  | 0x0D#7 => execAdXyz3 v s
  | 0x14#7 => execAdTex1_1 v s
  | 0x15#7 => execAdTex1_2 v s
  | 0x16#7 => execAdTex2_1 v s
  | 0x17#7 => execAdTex2_2 v s
  | 0x18#7 => execAdXyoffset_1 v s
  | 0x19#7 => execAdXyoffset_2 v s
  | 0x1A#7 => execAdPrmodecont v s
  | 0x1B#7 => execAdPrmode v s
  | 0x1C#7 => execAdTexclut v s
  | 0x22#7 => execAdScanmsk v s
  | 0x34#7 => execAdMiptbp1_1 v s
  | 0x35#7 => execAdMiptbp1_2 v s
  | 0x36#7 => execAdMiptbp2_1 v s
  | 0x37#7 => execAdMiptbp2_2 v s
  | 0x3B#7 => execAdTexa v s
  | 0x3D#7 => execAdFogcol v s
  | 0x3F#7 => execAdTexflush v s
  | 0x40#7 => execAdScissor_1 v s
  | 0x41#7 => execAdScissor_2 v s
  | 0x42#7 => execAdAlpha_1 v s
  | 0x43#7 => execAdAlpha_2 v s
  | 0x44#7 => execAdDimx v s
  | 0x45#7 => execAdDthe v s
  | 0x46#7 => execAdColclamp v s
  | 0x47#7 => execAdTest_1 v s
  | 0x48#7 => execAdTest_2 v s
  | 0x49#7 => execAdPabe v s
  | 0x4A#7 => execAdFba_1 v s
  | 0x4B#7 => execAdFba_2 v s
  | 0x4C#7 => execAdFrame_1 v s
  | 0x4D#7 => execAdFrame_2 v s
  | 0x4E#7 => execAdZbuf_1 v s
  | 0x4F#7 => execAdZbuf_2 v s
  | 0x50#7 => execAdBitbltbuf v s
  | 0x51#7 => execAdTrxpos v s
  | 0x52#7 => execAdTrxreg v s
  | 0x53#7 => execAdTrxdir v s
  | 0x54#7 => execAdHwreg v s
  | 0x60#7 => execAdSignal v s
  | 0x61#7 => execAdFinish v s
  | 0x62#7 => execAdLabel v s
  | _ => .next s

end Sys2Proof.Machine
end

