-- ==== Sys2Proof/Machine/Packed.lean ====
section
/-! DEFINITION. The PACKED rows: `Packed[d](q)` for each descriptor (40_gif_decoder R180 to R195). -/

namespace Sys2Proof.Machine

/-- PACKED.PRIM (R180): ApplyPRIM of the slot's 11 bits. -/
def execPackedPrim (v : BitVec 11) (s : State) : Host.Outcome State Fault Refusal := .next (applyPrim v s)

/-- PACKED.RGBA (R181): colour, Q from the internal Q. -/
def execPackedRgba (r g b a : BitVec 8) (s : State) : Host.Outcome State Fault Refusal := .next ({ s with vacc := s.vacc.setRgba r g b a s.qint })

/-- PACKED.STQ (R182): S and T; Q goes to the internal Q. -/
def execPackedStq (s0 t q : BitVec 32) (s : State) : Host.Outcome State Fault Refusal := .next ({ s with vacc := s.vacc.setSt s0 t, qint := q })

/-- PACKED.UV (R183): U and V. -/
def execPackedUv (u v : BitVec 14) (s : State) : Host.Outcome State Fault Refusal := .next (uvSet u v s)

/-- PACKED.XYZF2 (R184): position and fog; ADC = 1 is a kick without drawing. -/
def execPackedXyzf2 (x y : BitVec 16) (z : BitVec 24) (f : BitVec 8) (adc : Bool) (s : State) : Host.Outcome State Fault Refusal := .next (xyzfWrite x y z f adc s)

/-- PACKED.XYZ2 (R185): position; ADC = 1 is a kick without drawing. -/
def execPackedXyz2 (x y : BitVec 16) (z : BitVec 32) (adc : Bool) (s : State) : Host.Outcome State Fault Refusal := .next (xyzWrite x y z adc s)

/-- PACKED.TEX0_1 (R186): the register write at the descriptor's address. -/
def execPackedTex0_1 (data : Word64) (s : State) : Host.Outcome State Fault Refusal := writeReg 0x06#7 data s

/-- PACKED.TEX0_2 (R187): the register write at the descriptor's address. -/
def execPackedTex0_2 (data : Word64) (s : State) : Host.Outcome State Fault Refusal := writeReg 0x07#7 data s

/-- PACKED.CLAMP_1 (R188): the register write at the descriptor's address. -/
def execPackedClamp_1 (data : Word64) (s : State) : Host.Outcome State Fault Refusal := writeReg 0x08#7 data s

/-- PACKED.CLAMP_2 (R189): the register write at the descriptor's address. -/
def execPackedClamp_2 (data : Word64) (s : State) : Host.Outcome State Fault Refusal := writeReg 0x09#7 data s

/-- PACKED.FOG (R190): F. -/
def execPackedFog (f : BitVec 8) (s : State) : Host.Outcome State Fault Refusal := .next (fogSet f s)

/-- PACKED.RESERVED_B (R191): per `RESERVED_DESC_POLICY`. The slot is consumed either way. -/
def execPackedReservedB (s : State) : Host.Outcome State Fault Refusal :=
  match s.cfg.reservedDesc with
  | .nop => .next s
  | .refuse => .next (refuse .reservedDescriptor s)

/-- PACKED.XYZF3 (R192): position and fog, kick without drawing. -/
def execPackedXyzf3 (x y : BitVec 16) (z : BitVec 24) (f : BitVec 8) (s : State) : Host.Outcome State Fault Refusal := .next (xyzfWrite x y z f true s)

/-- PACKED.XYZ3 (R193): position, kick without drawing. -/
def execPackedXyz3 (x y : BitVec 16) (z : BitVec 32) (s : State) : Host.Outcome State Fault Refusal := .next (xyzWrite x y z true s)

/-- PACKED.A+D (R194): the register write the slot addresses, whatever the address. -/
def execPackedAd (addr : BitVec 7) (data : Word64) (s : State) : Host.Outcome State Fault Refusal := writeReg addr data s

/-- PACKED.NOP (R195): no effect. -/
def execPackedNop (s : State) : Host.Outcome State Fault Refusal := .next s

end Sys2Proof.Machine
end

