-- ==== Sys2Proof/Machine/Reglist.lean ====
section
/-! DEFINITION. The REGLIST rows: `Reglist[d](v)` for each descriptor (40_gif_decoder R196, R197). -/

namespace Sys2Proof.Machine

/-- REGLIST.PRIM (R196). -/
def execReglistPrim (v : Word64) (s : State) : Host.Outcome State Fault Refusal := writeReg 0x00#7 v s

/-- REGLIST.RGBAQ (R196). -/
def execReglistRgbaq (v : Word64) (s : State) : Host.Outcome State Fault Refusal := writeReg 0x01#7 v s

/-- REGLIST.ST (R196). -/
def execReglistSt (v : Word64) (s : State) : Host.Outcome State Fault Refusal := writeReg 0x02#7 v s

/-- REGLIST.UV (R196). -/
def execReglistUv (v : Word64) (s : State) : Host.Outcome State Fault Refusal := writeReg 0x03#7 v s

/-- REGLIST.XYZF2 (R196). -/
def execReglistXyzf2 (v : Word64) (s : State) : Host.Outcome State Fault Refusal := writeReg 0x04#7 v s

/-- REGLIST.XYZ2 (R196). -/
def execReglistXyz2 (v : Word64) (s : State) : Host.Outcome State Fault Refusal := writeReg 0x05#7 v s

/-- REGLIST.TEX0_1 (R196). -/
def execReglistTex0_1 (v : Word64) (s : State) : Host.Outcome State Fault Refusal := writeReg 0x06#7 v s

/-- REGLIST.TEX0_2 (R196). -/
def execReglistTex0_2 (v : Word64) (s : State) : Host.Outcome State Fault Refusal := writeReg 0x07#7 v s

/-- REGLIST.CLAMP_1 (R196). -/
def execReglistClamp_1 (v : Word64) (s : State) : Host.Outcome State Fault Refusal := writeReg 0x08#7 v s

/-- REGLIST.CLAMP_2 (R196). -/
def execReglistClamp_2 (v : Word64) (s : State) : Host.Outcome State Fault Refusal := writeReg 0x09#7 v s

/-- REGLIST.FOG (R196). -/
def execReglistFog (v : Word64) (s : State) : Host.Outcome State Fault Refusal := writeReg 0x0A#7 v s

/-- REGLIST.0x0B (R196). -/
def execReglistUnassigned0B (v : Word64) (s : State) : Host.Outcome State Fault Refusal := writeReg 0x0B#7 v s

/-- REGLIST.XYZF3 (R196). -/
def execReglistXyzf3 (v : Word64) (s : State) : Host.Outcome State Fault Refusal := writeReg 0x0C#7 v s

/-- REGLIST.XYZ3 (R196). -/
def execReglistXyz3 (v : Word64) (s : State) : Host.Outcome State Fault Refusal := writeReg 0x0D#7 v s

/-- REGLIST.A+D (R197): the value is consumed and has no effect. -/
def execReglistAd (_v : Word64) (s : State) : Host.Outcome State Fault Refusal := .next s

/-- REGLIST.NOP (R197): the value is consumed and has no effect. -/
def execReglistNop (_v : Word64) (s : State) : Host.Outcome State Fault Refusal := .next s

end Sys2Proof.Machine
end

