-- ==== Sys2Proof/Machine/Tags.lean ====
section
/-! DEFINITION. The GIFTAG rows: tag start (40_gif_decoder R171, R172) and the data qword of an IMAGE tag (R177, R178). The path of a
unit is the path of the feed call in progress (log 21). -/

namespace Sys2Proof.Machine

/-- `TagStart(p, u)` for a tag of format `flg` (40_gif_decoder R171): with NLOOP = 0 only the path's parser state changes (R172). -/
def tagStart (flg : BitVec 2) (t : TagFields) (s : State) : State :=
  let s1 := s.setPath s.feed.path ⟨encodeTag flg t, t.nloop, 0#4⟩
  if t.nloop = 0#15 then s1
  else if t.pre && flg = 0#2 then applyPrim t.prim { s1 with qint := qintOne }
  else { s1 with qint := qintOne }

/-- `ImageQword(p, u)` (40_gif_decoder R177): 16 bytes of transfer data, and one loop iteration. -/
def imageQword (q : Qword) (s : State) : State :=
  let s1 := xferData (bytesOf 16 q) s
  s1.setPath s1.feed.path { s1.path s1.feed.path with nloop := (s1.path s1.feed.path).nloop - 1#15 }

/-- GIFTAG.PACKED (40_gif_decoder R171, R175). -/
def execGiftagPacked (t : TagFields) (s : State) : Host.Outcome State Fault Refusal := .next (tagStart 0#2 t s)

/-- GIFTAG.REGLIST (40_gif_decoder R171, R176). -/
def execGiftagReglist (t : TagFields) (s : State) : Host.Outcome State Fault Refusal := .next (tagStart 1#2 t s)

/-- GIFTAG.IMAGE (40_gif_decoder R171, R177). -/
def execGiftagImage (u : ImageUnit) (s : State) : Host.Outcome State Fault Refusal :=
  match u with
  | .tag t => .next (tagStart 2#2 t s)
  | .data q => .next (imageQword q s)

/-- GIFTAG.IMAGE2, with the meaning of IMAGE (40_gif_decoder R171, R178). -/
def execGiftagImage2 (u : ImageUnit) (s : State) : Host.Outcome State Fault Refusal :=
  match u with
  | .tag t => .next (tagStart 3#2 t s)
  | .data q => .next (imageQword q s)

end Sys2Proof.Machine
end

