-- ==== Sys2Proof/Machine/Dispatch.lean ====
section
/-! DEFINITION. The dispatch: one arm for each instruction. -/

namespace Sys2Proof.Machine

def exec (i : Instr) (s : State) : Host.Outcome State Fault Refusal :=
  match i with
  | .giftagPacked t => Sys2Proof.Machine.execGiftagPacked t s
  | .giftagReglist t => Sys2Proof.Machine.execGiftagReglist t s
  | .giftagImage u => Sys2Proof.Machine.execGiftagImage u s
  | .giftagImage2 u => Sys2Proof.Machine.execGiftagImage2 u s
  | .packedPrim v => Sys2Proof.Machine.execPackedPrim v s
  | .packedRgba r g b a => Sys2Proof.Machine.execPackedRgba r g b a s
  | .packedStq s0 t q => Sys2Proof.Machine.execPackedStq s0 t q s
  | .packedUv u v => Sys2Proof.Machine.execPackedUv u v s
  | .packedXyzf2 x y z f adc => Sys2Proof.Machine.execPackedXyzf2 x y z f adc s
  | .packedXyz2 x y z adc => Sys2Proof.Machine.execPackedXyz2 x y z adc s
  | .packedTex0_1 data => Sys2Proof.Machine.execPackedTex0_1 data s
  | .packedTex0_2 data => Sys2Proof.Machine.execPackedTex0_2 data s
  | .packedClamp_1 data => Sys2Proof.Machine.execPackedClamp_1 data s
  | .packedClamp_2 data => Sys2Proof.Machine.execPackedClamp_2 data s
  | .packedFog f => Sys2Proof.Machine.execPackedFog f s
  | .packedReservedB => Sys2Proof.Machine.execPackedReservedB s
  | .packedXyzf3 x y z f => Sys2Proof.Machine.execPackedXyzf3 x y z f s
  | .packedXyz3 x y z => Sys2Proof.Machine.execPackedXyz3 x y z s
  | .packedAd addr data => Sys2Proof.Machine.execPackedAd addr data s
  | .packedNop => Sys2Proof.Machine.execPackedNop s
  | .reglistPrim v => Sys2Proof.Machine.execReglistPrim v s
  | .reglistRgbaq v => Sys2Proof.Machine.execReglistRgbaq v s
  | .reglistSt v => Sys2Proof.Machine.execReglistSt v s
  | .reglistUv v => Sys2Proof.Machine.execReglistUv v s
  | .reglistXyzf2 v => Sys2Proof.Machine.execReglistXyzf2 v s
  | .reglistXyz2 v => Sys2Proof.Machine.execReglistXyz2 v s
  | .reglistTex0_1 v => Sys2Proof.Machine.execReglistTex0_1 v s
  | .reglistTex0_2 v => Sys2Proof.Machine.execReglistTex0_2 v s
  | .reglistClamp_1 v => Sys2Proof.Machine.execReglistClamp_1 v s
  | .reglistClamp_2 v => Sys2Proof.Machine.execReglistClamp_2 v s
  | .reglistFog v => Sys2Proof.Machine.execReglistFog v s
  | .reglistUnassigned0B v => Sys2Proof.Machine.execReglistUnassigned0B v s
  | .reglistXyzf3 v => Sys2Proof.Machine.execReglistXyzf3 v s
  | .reglistXyz3 v => Sys2Proof.Machine.execReglistXyz3 v s
  | .reglistAd v => Sys2Proof.Machine.execReglistAd v s
  | .reglistNop v => Sys2Proof.Machine.execReglistNop v s
  | .adPrim v => Sys2Proof.Machine.execAdPrim v s
  | .adRgbaq v => Sys2Proof.Machine.execAdRgbaq v s
  | .adSt v => Sys2Proof.Machine.execAdSt v s
  | .adUv v => Sys2Proof.Machine.execAdUv v s
  | .adXyzf2 v => Sys2Proof.Machine.execAdXyzf2 v s
  | .adXyz2 v => Sys2Proof.Machine.execAdXyz2 v s
  | .adTex0_1 v => Sys2Proof.Machine.execAdTex0_1 v s
  | .adTex0_2 v => Sys2Proof.Machine.execAdTex0_2 v s
  | .adClamp_1 v => Sys2Proof.Machine.execAdClamp_1 v s
  | .adClamp_2 v => Sys2Proof.Machine.execAdClamp_2 v s
  | .adFog v => Sys2Proof.Machine.execAdFog v s
  | .adXyzf3 v => Sys2Proof.Machine.execAdXyzf3 v s
  | .adXyz3 v => Sys2Proof.Machine.execAdXyz3 v s
  | .adTex1_1 v => Sys2Proof.Machine.execAdTex1_1 v s
  | .adTex1_2 v => Sys2Proof.Machine.execAdTex1_2 v s
  | .adTex2_1 v => Sys2Proof.Machine.execAdTex2_1 v s
  | .adTex2_2 v => Sys2Proof.Machine.execAdTex2_2 v s
  | .adXyoffset_1 v => Sys2Proof.Machine.execAdXyoffset_1 v s
  | .adXyoffset_2 v => Sys2Proof.Machine.execAdXyoffset_2 v s
  | .adPrmodecont v => Sys2Proof.Machine.execAdPrmodecont v s
  | .adPrmode v => Sys2Proof.Machine.execAdPrmode v s
  | .adTexclut v => Sys2Proof.Machine.execAdTexclut v s
  | .adScanmsk v => Sys2Proof.Machine.execAdScanmsk v s
  | .adMiptbp1_1 v => Sys2Proof.Machine.execAdMiptbp1_1 v s
  | .adMiptbp1_2 v => Sys2Proof.Machine.execAdMiptbp1_2 v s
  | .adMiptbp2_1 v => Sys2Proof.Machine.execAdMiptbp2_1 v s
  | .adMiptbp2_2 v => Sys2Proof.Machine.execAdMiptbp2_2 v s
  | .adTexa v => Sys2Proof.Machine.execAdTexa v s
  | .adFogcol v => Sys2Proof.Machine.execAdFogcol v s
  | .adTexflush v => Sys2Proof.Machine.execAdTexflush v s
  | .adScissor_1 v => Sys2Proof.Machine.execAdScissor_1 v s
  | .adScissor_2 v => Sys2Proof.Machine.execAdScissor_2 v s
  | .adAlpha_1 v => Sys2Proof.Machine.execAdAlpha_1 v s
  | .adAlpha_2 v => Sys2Proof.Machine.execAdAlpha_2 v s
  | .adDimx v => Sys2Proof.Machine.execAdDimx v s
  | .adDthe v => Sys2Proof.Machine.execAdDthe v s
  | .adColclamp v => Sys2Proof.Machine.execAdColclamp v s
  | .adTest_1 v => Sys2Proof.Machine.execAdTest_1 v s
  | .adTest_2 v => Sys2Proof.Machine.execAdTest_2 v s
  | .adPabe v => Sys2Proof.Machine.execAdPabe v s
  | .adFba_1 v => Sys2Proof.Machine.execAdFba_1 v s
  | .adFba_2 v => Sys2Proof.Machine.execAdFba_2 v s
  | .adFrame_1 v => Sys2Proof.Machine.execAdFrame_1 v s
  | .adFrame_2 v => Sys2Proof.Machine.execAdFrame_2 v s
  | .adZbuf_1 v => Sys2Proof.Machine.execAdZbuf_1 v s
  | .adZbuf_2 v => Sys2Proof.Machine.execAdZbuf_2 v s
  | .adBitbltbuf v => Sys2Proof.Machine.execAdBitbltbuf v s
  | .adTrxpos v => Sys2Proof.Machine.execAdTrxpos v s
  | .adTrxreg v => Sys2Proof.Machine.execAdTrxreg v s
  | .adTrxdir v => Sys2Proof.Machine.execAdTrxdir v s
  | .adHwreg v => Sys2Proof.Machine.execAdHwreg v s
  | .adSignal v => Sys2Proof.Machine.execAdSignal v s
  | .adFinish v => Sys2Proof.Machine.execAdFinish v s
  | .adLabel v => Sys2Proof.Machine.execAdLabel v s

end Sys2Proof.Machine
end

