-- ==== Sys2Proof/Machine/Codec.lean ====
section
/-! DEFINITION. Codes: how a value is written as bytes and read off the front of bytes, and one code for the saved state (70 R433). The
format of save-states is OPEN (`SnapshotFormat`); this code only shows that formats exist. -/

namespace Sys2Proof.Machine

/-- How a value is written as bytes, and read off the front of bytes. -/
structure Codec (α : Type) where
  put : α → List Byte
  get : List Byte → Option (α × List Byte)

/-! ## Numbers -/

/-- Seven bits a byte, low bits first; the last byte is below 128. The first argument bounds the length. -/
def putNat : Nat → Nat → List Byte
  | 0, _ => [0]
  | k + 1, n => if n < 128 then [BitVec.ofNat 8 n] else BitVec.ofNat 8 (128 + n % 128) :: putNat k (n / 128)

def getNat : List Byte → Option (Nat × List Byte)
  | [] => none
  | b :: t => if b.toNat < 128 then some (b.toNat, t) else (getNat t).map fun r => (b.toNat - 128 + 128 * r.1, r.2)

def Codec.nat : Codec Nat := ⟨fun n => putNat n n, getNat⟩

/-! ## Compound values -/

def Codec.pair {α β : Type} (a : Codec α) (b : Codec β) : Codec (α × β) where
  put v := a.put v.1 ++ b.put v.2
  get bs := (a.get bs).bind fun r => (b.get r.2).map fun q => ((r.1, q.1), q.2)

/-- A value written as another one that determines it. -/
def Codec.view {α β : Type} (c : Codec α) (f : β → α) (g : α → β) : Codec β where
  put v := c.put (f v)
  get bs := (c.get bs).map fun r => (g r.1, r.2)

def putMany {α : Type} (c : Codec α) : List α → List Byte
  | [] => []
  | v :: t => c.put v ++ putMany c t

def getMany {α : Type} (c : Codec α) : Nat → List Byte → Option (List α × List Byte)
  | 0, bs => some ([], bs)
  | n + 1, bs => (c.get bs).bind fun r => (getMany c n r.2).map fun q => (r.1 :: q.1, q.2)

/-- The length, then the elements. -/
def Codec.list {α : Type} (c : Codec α) : Codec (List α) where
  put l := putNat l.length l.length ++ putMany c l
  get bs := (getNat bs).bind fun r => getMany c r.1 r.2

/-! ## The fields -/

def Codec.bits (n : Nat) : Codec (BitVec n) := Codec.nat.view BitVec.toNat (BitVec.ofNat n)
def Codec.bool : Codec Bool := Codec.nat.view Bool.toNat fun n => n == 1
def Codec.int : Codec Int := (Codec.nat.pair Codec.nat).view (fun i => (i.toNat, (-i).toNat)) fun p => (p.1 : Int) - p.2
def Codec.count : Codec (Fin 4) := Codec.nat.view Fin.val (Fin.ofNat 4)

def Codec.mode : Codec XferMode :=
  Codec.nat.view (fun m => match m with | .idle => 0 | .write => 1 | .read => 2)
    fun n => match n with | 0 => .idle | 1 => .write | _ => .read

def Codec.path : Codec PathState :=
  ((bits 128).pair ((bits 15).pair (bits 4))).view (fun p => (p.tag, p.nloop, p.reg)) fun t => ⟨t.1, t.2.1, t.2.2⟩

def Codec.words : Codec (List Word64) := (bits 64).list

def Env.words (e : Env) : List Word64 :=
  [e.prim, e.prmodecont, e.prmode, e.texclut, e.scanmsk, e.texa, e.fogcol, e.dimx, e.dthe, e.colclamp, e.pabe, e.bitbltbuf, e.trxpos,
    e.trxreg, e.trxdir]

def Env.ofWords (l : List Word64) : Env :=
  let w := fun i => l.getD i 0
  ⟨w 0, w 1, w 2, w 3, w 4, w 5, w 6, w 7, w 8, w 9, w 10, w 11, w 12, w 13, w 14⟩

def Ctx.words (c : Ctx) : List Word64 :=
  [c.xyoffset, c.tex0, c.tex1, c.clamp, c.miptbp1, c.miptbp2, c.scissor, c.alpha, c.test, c.fba, c.frame, c.zbuf]

def Ctx.ofWords (l : List Word64) : Ctx :=
  let w := fun i => l.getD i 0
  ⟨w 0, w 1, w 2, w 3, w 4, w 5, w 6, w 7, w 8, w 9, w 10, w 11⟩

def Codec.env : Codec Env := Codec.words.view Env.words Env.ofWords
def Codec.ctx : Codec Ctx := Codec.words.view Ctx.words Ctx.ofWords

def Codec.acc : Codec VAcc :=
  ((bits 8).pair <| (bits 8).pair <| (bits 8).pair <| (bits 8).pair <| (bits 32).pair <| (bits 32).pair <| (bits 32).pair <|
    (bits 14).pair <| (bits 14).pair (bits 8)).view
    (fun a => (a.r, a.g, a.b, a.a, a.q, a.s, a.t, a.u, a.v, a.f)) fun (r, g, b, a, q, s, t, u, v, f) => ⟨r, g, b, a, q, s, t, u, v, f⟩

def Codec.vertex : Codec Vertex :=
  ((bits 16).pair <| (bits 16).pair <| (bits 32).pair acc).view (fun v => (v.x, v.y, v.z, v.attrs)) fun (x, y, z, a) => ⟨x, y, z, a⟩

def Codec.queue : Codec VertexQueue :=
  (vertex.list.pair <| nat.pair <| nat.pair nat.list).view (fun q => (q.vbuf, q.head, q.next, q.ibuf)) fun (v, h, n, i) => ⟨v, h, n, i⟩

def Codec.xy : Codec XY := (int.pair int).view (fun p => (p.sx, p.sy)) fun (x, y) => ⟨x, y⟩

def Codec.window : Codec Window :=
  (xy.pair <| xy.pair <| xy.pair <| xy.pair count).view (fun w => (w.e0, w.e1, w.e2, w.e3, w.count)) fun (a, b, c, d, n) => ⟨a, b, c, d, n⟩

def Codec.engine : Codec Xfer :=
  (mode.pair <| (bits 64).pair <| (bits 64).pair <| nat.pair <| nat.pair <| nat.pair <| nat.pair <| nat.pair <| nat.pair <| nat.pair <|
    (bits 39).pair <| nat.pair bool).view
    (fun x => (x.mode, x.blit, x.pos, x.w, x.h, x.bpp, x.cx, x.cy, x.done, x.total, x.pbits, x.pcount, x.overflow))
    fun (m, b, p, w, h, n, cx, cy, d, t, pb, pc, o) => ⟨m, b, p, w, h, n, cx, cy, d, t, pb, pc, o⟩

/-- The saved state, its parts in the order of 70 R433. -/
def Codec.image : Codec Image :=
  ((path.pair <| path.pair <| path.pair path).pair <| (ctx.pair ctx).pair <| env.pair <| (acc.pair (bits 32)).pair <|
    (queue.pair window).pair engine).view
    (fun b => ((b.path0, b.path1, b.path2, b.path3), (b.ctx0, b.ctx1), b.env, (b.vacc, b.qint), (b.vq, b.win), b.xfer))
    fun ((p0, p1, p2, p3), (c0, c1), e, (a, q), (v, w), x) => ⟨p0, p1, p2, p3, e, c0, c1, a, q, v, w, x⟩

/-- The value the whole of the bytes is the writing of. -/
def Codec.whole {α : Type} (c : Codec α) (bs : List Byte) : Option α :=
  match c.get bs with
  | some (v, []) => some v
  | _ => none

/-! ## The laws -/

/-- What was written is read back, and what follows it is left. -/
def Codec.Lawful {α : Type} (c : Codec α) : Prop := ∀ a rest, c.get (c.put a ++ rest) = some (a, rest)

theorem getNat_putNat (k n : Nat) (rest : List Byte) (h : n ≤ k) : getNat (putNat k n ++ rest) = some (n, rest) := by
  induction k generalizing n with
  | zero => obtain rfl : n = 0 := by omega
            rfl
  | succ k ih =>
    unfold putNat
    split
    · next h1 =>
      have e : n % 2 ^ 8 = n := Nat.mod_eq_of_lt (by omega)
      simp [getNat, BitVec.toNat_ofNat, h1, Nat.mod_eq_of_lt (show n < 256 by omega)]
    · next h1 =>
      have e : (128 + n % 128) % 256 = 128 + n % 128 := Nat.mod_eq_of_lt (by omega)
      have := ih (n / 128) (by omega)
      simp only [List.cons_append, getNat, BitVec.toNat_ofNat, Nat.reducePow, e, this, Option.map_some]
      rw [if_neg (by omega)]
      congr 2
      omega

namespace Codec

theorem nat_lawful : nat.Lawful := fun n rest => getNat_putNat n n rest (Nat.le_refl n)

theorem pair_lawful {α β : Type} {a : Codec α} {b : Codec β} (ha : a.Lawful) (hb : b.Lawful) : (a.pair b).Lawful := by
  rintro ⟨x, y⟩ rest
  simp only [pair, List.append_assoc]
  rw [ha x]; simp only [Option.bind_some]; rw [hb y]; rfl

theorem view_lawful {α β : Type} {c : Codec α} {f : β → α} {g : α → β} (hc : c.Lawful) (h : ∀ b, g (f b) = b) :
    (c.view f g).Lawful := by
  intro b rest
  simp only [view]
  rw [hc (f b)]; simp [h]

theorem getMany_putMany {α : Type} {c : Codec α} (hc : c.Lawful) (l : List α) (rest : List Byte) :
    getMany c l.length (putMany c l ++ rest) = some (l, rest) := by
  induction l with
  | nil => rfl
  | cons a t ih =>
    simp only [putMany, List.append_assoc, List.length_cons, getMany]
    rw [hc a]; simp only [Option.bind_some]; rw [ih]; rfl

theorem list_lawful {α : Type} {c : Codec α} (hc : c.Lawful) : c.list.Lawful := by
  intro l rest
  simp only [list, List.append_assoc]
  rw [getNat_putNat _ _ _ (Nat.le_refl _)]
  exact getMany_putMany hc l rest

theorem bits_lawful (n : Nat) : (bits n).Lawful := view_lawful nat_lawful fun b => by simp

theorem words_lawful : words.Lawful := list_lawful (bits_lawful 64)

theorem acc_lawful : acc.Lawful :=
  view_lawful
    (pair_lawful (bits_lawful 8) <| pair_lawful (bits_lawful 8) <| pair_lawful (bits_lawful 8) <| pair_lawful (bits_lawful 8) <|
      pair_lawful (bits_lawful 32) <| pair_lawful (bits_lawful 32) <| pair_lawful (bits_lawful 32) <| pair_lawful (bits_lawful 14) <|
      pair_lawful (bits_lawful 14) (bits_lawful 8)) fun _ => rfl

theorem vertex_lawful : vertex.Lawful :=
  view_lawful (pair_lawful (bits_lawful 16) <| pair_lawful (bits_lawful 16) <| pair_lawful (bits_lawful 32) acc_lawful) fun _ => rfl

theorem queue_lawful : queue.Lawful :=
  view_lawful (pair_lawful (list_lawful vertex_lawful) <| pair_lawful nat_lawful <| pair_lawful nat_lawful (list_lawful nat_lawful))
    fun _ => rfl

theorem xy_lawful : xy.Lawful :=
  have h : int.Lawful := view_lawful (pair_lawful nat_lawful nat_lawful) fun i => by dsimp only; omega
  view_lawful (pair_lawful h h) fun _ => rfl

theorem window_lawful : window.Lawful :=
  have h : count.Lawful := view_lawful nat_lawful (by decide)
  view_lawful (pair_lawful xy_lawful <| pair_lawful xy_lawful <| pair_lawful xy_lawful <| pair_lawful xy_lawful h) fun _ => rfl

theorem engine_lawful : engine.Lawful :=
  have hm : mode.Lawful := view_lawful nat_lawful fun m => by cases m <;> rfl
  have hb : bool.Lawful := view_lawful nat_lawful (by decide)
  view_lawful
    (pair_lawful hm <| pair_lawful (bits_lawful 64) <| pair_lawful (bits_lawful 64) <| pair_lawful nat_lawful <| pair_lawful nat_lawful <|
      pair_lawful nat_lawful <| pair_lawful nat_lawful <| pair_lawful nat_lawful <| pair_lawful nat_lawful <| pair_lawful nat_lawful <|
      pair_lawful (bits_lawful 39) <| pair_lawful nat_lawful hb) fun _ => rfl

theorem path_lawful : path.Lawful :=
  view_lawful (pair_lawful (bits_lawful 128) <| pair_lawful (bits_lawful 15) (bits_lawful 4)) fun _ => rfl

theorem env_lawful : env.Lawful := view_lawful words_lawful fun _ => rfl

theorem ctx_lawful : ctx.Lawful := view_lawful words_lawful fun _ => rfl

theorem image_lawful : image.Lawful :=
  view_lawful
    (pair_lawful (pair_lawful path_lawful <| pair_lawful path_lawful <| pair_lawful path_lawful path_lawful) <|
      pair_lawful (pair_lawful ctx_lawful ctx_lawful) <| pair_lawful env_lawful <| pair_lawful (pair_lawful acc_lawful (bits_lawful 32)) <|
      pair_lawful (pair_lawful queue_lawful window_lawful) engine_lawful) fun _ => rfl

theorem whole_put {α : Type} {c : Codec α} (h : c.Lawful) (v : α) : c.whole (c.put v) = some v := by
  have := h v []
  rw [List.append_nil] at this
  rw [whole, this]

end Codec

end Sys2Proof.Machine
end

