-- ==== Sys2Proof/Machine/Snapshot.lean ====
section
/-! DEFINITION. Save-states (70 R433): what they save, in which states the saved fields can be, and `SNAPSHOT_FORMAT`. -/

namespace Sys2Proof.Machine

/-- What Freeze saves (70 R433). -/
def imageOf (s : State) : Image :=
  { path0 := s.path0, path1 := s.path1, path2 := s.path2, path3 := s.path3, env := s.env, ctx0 := s.ctx0, ctx1 := s.ctx1,
    vacc := s.vacc, qint := s.qint, vq := s.vq, win := s.win, xfer := s.xfer }

/-! ## The ranges of the saved fields (Safety.lean says the same as propositions) -/

/-- Every reserved bit is 0 (10_state R36). -/
def Env.legal (e : Env) : Bool :=
  [EnvReg.prim, .prmodecont, .prmode, .texclut, .scanmsk, .texa, .fogcol, .dimx, .dthe, .colclamp, .pabe, .bitbltbuf, .trxpos, .trxreg,
    .trxdir].all fun r => e.get r &&& ~~~r.mask == 0

def Ctx.legal (c : Ctx) : Bool :=
  [CtxReg.xyoffset, .tex0, .tex1, .clamp, .miptbp1, .miptbp2, .scissor, .alpha, .test, .fba, .frame, .zbuf].all fun r =>
    c.get r &&& ~~~r.mask == 0

/-- The cursors and the indices (10_state R43, R44, 42_vertex_kick R313). -/
def VertexQueue.legal (q : VertexQueue) : Bool :=
  decide (q.head ≤ q.vbuf.length) && decide (q.next ≤ q.vbuf.length) && q.ibuf.all fun i => decide (i < q.next)

/-- What the topology asks of the queue between kicks (42_vertex_kick R313, 43_flush_draw R343), a discarded type 7 that no index is
pending (43_flush_draw R355). -/
def VertexQueue.between (q : VertexQueue) (t : Topology) : Bool :=
  decide (q.ibuf.length % t.verts = 0) && (t.group == .fan || decide (q.vbuf.length - q.head < t.verts)) &&
    (t.group != .list || decide (q.next ≤ q.head)) && (t.group != .discard || q.ibuf.isEmpty)

/-- A signed 18-bit integer (10_state R45). -/
def fits18 (i : Int) : Bool := decide (-131072 ≤ i) && decide (i < 131072)

def XY.legal (p : XY) : Bool := fits18 p.sx && fits18 p.sy

def Window.legal (w : Window) : Bool := w.e0.legal && w.e1.legal && w.e2.legal && w.e3.legal

/-- Sizes, cursor, counts and bits per pixel in every mode: before the first TRXDIR write the rectangle is 0 by 0 (10_state R47, R53). -/
def Xfer.inRange (x : Xfer) : Bool :=
  decide (x.w ≤ 4095) && decide (x.h ≤ 4095) &&
    (decide (x.w = 0 ∧ x.h = 0 ∧ x.cx = 0 ∧ x.cy = 0) || decide (1 ≤ x.w ∧ 1 ≤ x.h ∧ x.cx < x.w ∧ x.cy ≤ x.h)) &&
    decide (x.bpp ∈ [0, 4, 8, 16, 24, 32]) && decide (x.done ≤ x.total) && decide (x.total < 2 ^ 32)

/-- What the mode asks of an armed engine, or of the pending bits of an idle one (10_state R47, 44_transfer R365, R373). -/
def Xfer.modeLegal (x : Xfer) : Bool :=
  match x.mode with
  | .idle => x.pbits == 0 && x.pcount == 0
  | .write => decide (1 ≤ x.w) && decide (x.bpp = pixelBits (knownPsm (dpsm x.blit))) && decide (x.pcount < x.bpp) &&
      decide (x.total ≤ (x.w * x.h * x.bpp + 7) / 8)
  | .read => decide (1 ≤ x.w) && decide (x.bpp = pixelBits (knownPsm (spsm x.blit))) && decide (x.pcount ≤ 31) &&
      decide (x.total ≤ (x.w * x.h * x.bpp + 7) / 8)

/-- The engine's fields, with the reserved bits of the latched registers 0 (10_state R36, R47). -/
def Xfer.legal (x : Xfer) : Bool :=
  x.inRange && x.modeLegal && decide (x.pbits.toNat < 2 ^ x.pcount) && x.blit &&& ~~~EnvReg.bitbltbuf.mask == 0 &&
    x.pos &&& ~~~EnvReg.trxpos.mask == 0

/-- The topology of the registers in an image, under a policy for type 7 (10_state R39). -/
def Image.topology (policy : Prim7Policy) (b : Image) : Topology := topologyOf policy (Sys2Proof.bits b.env.prim 0 3)

/-- Every field of the image is in its range (10_state R36, R43 to R45, R47). -/
def Image.inRange (b : Image) : Bool := b.env.legal && b.ctx0.legal && b.ctx1.legal && b.vq.legal && b.win.legal && b.xfer.legal

/-- The image is of a state the spec allows: in range, the queue as it is between kicks, and within its capacities (10_state R43,
42_vertex_kick R310, R313). What this makes of an image frozen under other parameters is DESIGN CHOICE (log 22): one of type 7 with
indices pending or a live vertex, frozen under `as_sprite`, is not taken under `discard`. -/
def Image.legal (cfg : Cfg) (b : Image) : Bool :=
  b.inRange && b.vq.between (b.topology cfg.prim7) && !exceeds cfg.vbufMax b.vq.vbuf.length && !exceeds cfg.ibufMax b.vq.ibuf.length

/-! ## The format -/

/-- A save-state format (00_scope R7 `SNAPSHOT_FORMAT`, 70 R433): how each part of the state is written, the parts standing behind a
version tag in the order of R433, and how bytes are read. What is written is read back; what other bytes are, those of older versions
among them, is the format's. -/
structure SnapshotFormat where
  version : List Byte := []
  /-- GIFTag and path state -/
  paths : PathState → PathState → PathState → PathState → List Byte := fun a b c d =>
    Codec.path.put a ++ (Codec.path.put b ++ (Codec.path.put c ++ Codec.path.put d))
  /-- what the format holds of the registers apart from the contexts and the environment -/
  registers : Env → Ctx → Ctx → List Byte := fun _ _ _ => []
  contexts : Ctx → Ctx → List Byte := fun a b => Codec.ctx.put a ++ Codec.ctx.put b
  env : Env → List Byte := Codec.env.put
  /-- the vertex accumulator and the internal Q -/
  vertex : VAcc → BitVec 32 → List Byte := fun a q => Codec.acc.put a ++ (Codec.bits 32).put q
  /-- the pending vertices and indices, and the window -/
  pending : VertexQueue → Window → List Byte := fun v w => Codec.queue.put v ++ Codec.window.put w
  transfer : Xfer → List Byte := Codec.engine.put
  read : Blob → Option Image := Codec.image.whole
  law : ∀ b : Image, b.inRange = true →
    read (version ++ (paths b.path0 b.path1 b.path2 b.path3 ++ (registers b.env b.ctx0 b.ctx1 ++ (contexts b.ctx0 b.ctx1 ++ (env b.env ++
      (vertex b.vacc b.qint ++ (pending b.vq b.win ++ transfer b.xfer))))))) = some b := by
    exact fun b _ => Codec.whole_put Codec.image_lawful b
  deriving Inhabited

/-- The bytes of an image: the version, then the parts in order (70 R433). -/
def SnapshotFormat.write (f : SnapshotFormat) (b : Image) : Blob :=
  f.version ++ (f.paths b.path0 b.path1 b.path2 b.path3 ++ (f.registers b.env b.ctx0 b.ctx1 ++ (f.contexts b.ctx0 b.ctx1 ++
    (f.env b.env ++ (f.vertex b.vacc b.qint ++ (f.pending b.vq b.win ++ f.transfer b.xfer))))))

end Sys2Proof.Machine

/-- `SNAPSHOT_FORMAT`, OPEN (00_scope R7, 70 R433). DESIGN CHOICE (log 10). -/
opaque Sys2Proof.Config.snapshotFormat : Sys2Proof.Machine.SnapshotFormat

namespace Sys2Proof.Machine

/-- What Freeze returns for an image (70 R433). -/
def frozen (b : Image) : Blob := Config.snapshotFormat.write b

/-- What Defrost makes of a blob: the image the format reads; none where it reads none, or one of no state the spec allows: such a blob
is undecodable (70 R433; log 10). -/
def thawed (cfg : Cfg) (blob : Blob) : Option Image := (Config.snapshotFormat.read blob).filter (Image.legal cfg)

end Sys2Proof.Machine
end

