-- ==== Sys2Proof/Machine/HostCalls.lean ====
section
/-! DEFINITION. The host calls (70 R450). -/

namespace Sys2Proof.Machine

/-- The qwords of a call's bytes, in order (20_memory R80); a rest of fewer than 16 bytes, which no accepted call has, gives none. -/
def qwordsOf : Nat → List Byte → List Qword
  | 0, _ => []
  | n + 1, bs => qwordOfBytes (bs.take 16) :: qwordsOf n (bs.drop 16)

/-- Some path other than p is mid-tag (40_gif_decoder R179). -/
def otherMidTag (p : PathId) (s : State) : Bool :=
  [PathId.p0, .p1, .p2, .p3].any fun q => q != p && (s.path q).nloop != 0#15

/-- The start of `Transfer(p, bytes, size)`: its two checks, in this order; then the call's qwords are there to process
(40_gif_decoder R170, 60_exceptions R405). -/
def startTransfer (p : PathId) (bytes : List Byte) (size : Nat) (s : State) : State :=
  if bytes.length ≠ 16 * size then refuse .partialQword s
  else if otherMidTag p s then refuse .pathInterleavedMidTag s
  else { s with feed := ⟨p, qwordsOf size bytes, false⟩ }

/-- `SoftReset(mask)` (40_gif_decoder R199). -/
def softReset (mask : BitVec 4) (s : State) : State :=
  { s with
    path0 := if PathId.p0.inMask mask then .fresh else s.path0
    path1 := if PathId.p1.inMask mask then .fresh else s.path1
    path2 := if PathId.p2.inMask mask then .fresh else s.path2
    path3 := if PathId.p3.inMask mask then .fresh else s.path3 }

/-- `Reconfigure(cfg)` (70 R432). -/
def reconfigure (autoFlush altUvRounding kickEnabled : Bool) (s : State) : State :=
  { s with cfg := { s.cfg with autoFlush := autoFlush, altUvRounding := altUvRounding, kickEnabled := kickEnabled } }

/-- The state with what a blob holds (70 R433). -/
def restore (b : Image) (s : State) : State :=
  { s with
    path0 := b.path0, path1 := b.path1, path2 := b.path2, path3 := b.path3, env := b.env, ctx0 := b.ctx0, ctx1 := b.ctx1,
    vacc := b.vacc, qint := b.qint, vq := b.vq, win := b.win, xfer := b.xfer }

/-- `Freeze()`: the bytes go to the host (70 R433; log 10). -/
def freeze (s : State) : State := { s with blobs := s.blobs ++ [frozen (imageOf s)] }

/-- `Defrost(blob)` (70 R433). -/
def defrost (b : Blob) (s : State) : State :=
  match thawed s.cfg b with
  | some image => restore image s
  | none => refuse .badSnapshot s

/-- A host call on a block that is not stuck (70 R450). -/
def hostCall (c : HostCall) (s : State) : State :=
  match c with
  | .powerOn => powerOn s
  | .transfer p bytes size => startTransfer p bytes size s
  | .softReset mask => softReset mask s
  | .flushRequest => flush s
  | .readFIFO n => readFIFO n s
  | .reconfigure a u k => reconfigure a u k s
  | .freeze => freeze s
  | .defrost b => defrost b s

/-- A host call on a stuck block: only PowerOn acts (70 R450). -/
def stuckCall (c : HostCall) (s : State) : State :=
  match c with
  | .powerOn => powerOn s
  | _ => s

end Sys2Proof.Machine
end

