-- ==== Sys2Proof/Machine/Fetch.lean ====
section
/-! DEFINITION. Fetching a stream unit, and what the decoder does around its instruction (40_gif_decoder R170 to R176). -/

namespace Sys2Proof.Machine

/-- The path of the feed call in progress. -/
def State.cur (s : State) : PathState := s.path s.feed.path

/-- What the next unit is, by the path's parser state (40_gif_decoder R170, R175, R176). -/
def unitCtx (s : State) : UnitCtx :=
  if s.cur.nloop = 0#15 then .tag
  else match s.cur.flg with
    | 0#2 => .packed s.cur.getReg
    | 1#2 => .reglist s.cur.getReg
    | 2#2 => .image
    | _ => .image2

/-- The unit in qword q: of a REGLIST qword, the half that is next, low half first (20_memory R81, 40_gif_decoder R176). -/
def fetchUnit (s : State) (q : Qword) : StreamUnit :=
  match unitCtx s with
  | .reglist d => reglistUnit d (bits q (if s.feed.half then 64 else 0) 64)
  | c => ⟨c, q⟩

/-- Step the slot cursor of the current path. -/
def stepSlot (s : State) : State := s.setPath s.feed.path s.cur.stepReg

/-- The first qword of the feed call is through. -/
def consume (s : State) : State := { s with feed := { s.feed with qwords := s.feed.qwords.tail, half := false } }

/-- "the rest of the call is ignored" after a completed tag with EOP on a path where it terminates (40_gif_decoder R173). -/
def eopCheck (s : State) : State :=
  if s.cur.nloop = 0#15 && s.cur.eop && s.feed.path.inMask s.cfg.eopTerminates then endFeed s else s

/-- The qword of a unit is through, with what follows it. -/
def nextQword (s : State) : State := eopCheck (consume s)

/-- After the instruction of a unit in context c, `StepReg` and the way to the next unit. The low half of a REGLIST qword leaves the
high half to do, unless it completes the tag: then the high half is padding (40_gif_decoder R175, R176). -/
def advance (c : UnitCtx) (s : State) : State :=
  match c with
  | .packed _ => nextQword (stepSlot s)
  | .reglist _ =>
    let s1 := stepSlot s
    if s1.feed.half || s1.cur.nloop = 0#15 then nextQword s1 else { s1 with feed := { s1.feed with half := true } }
  | _ => nextQword s

/-- After the instruction: a fault stops the unit where it stood (60_exceptions R401); a refused slot is consumed and nothing more
(40_gif_decoder R191). -/
def finishUnit (c : UnitCtx) (s : State) : State :=
  if s.fault.isSome then s
  else if s.refused.isSome then endFeed (advance c s)
  else advance c s

/-- The next unit of a feed call whose first qword is q. -/
def unitStep (s : State) (q : Qword) : Host.Outcome State Fault Refusal :=
  match exec (decode (fetchUnit s q)) s with
  | .next t => .next (finishUnit (unitCtx s) t)
  | .fault f => .fault f
  | .refused r => .refused r

/-- A stuck block: a pending call is taken without effect, unless it is PowerOn; with no call left it stays where it is, and the
outcome says why (10_state R51, 70 R450; log 4). -/
def stuckStep (s : State) : Host.Outcome State Fault Refusal :=
  match s.calls with
  | c :: rest => .next (stuckCall c { s with calls := rest })
  | [] =>
    match s.fault, s.refused with
    | some f, _ => .fault f
    | none, some r => .refused r
    | none, none => .next s

/-- The next host call; with none pending the block does nothing (60_exceptions R415). -/
def callStep (s : State) : Host.Outcome State Fault Refusal :=
  match s.calls with
  | c :: rest => .next (hostCall c { s with calls := rest })
  | [] => .next s

/-! ## Placing a unit -/

/-- A tag with NLOOP 1, NREG 1 and the given FLG and descriptor. -/
def oneUnitTag (flg : BitVec 2) (d : BitVec 4) : Qword :=
  encodeTag flg { nloop := 1#15, eop := false, ignored := 0#30, pre := false, prim := 0#11, nreg := 1#4, regs := d.setWidth 64 }

/-- The parser state in which a unit of context c is next. -/
def pathFor (c : UnitCtx) : PathState :=
  match c with
  | .tag => .fresh
  | .packed d => ⟨oneUnitTag 0#2 d, 1#15, 0#4⟩
  | .reglist d => ⟨oneUnitTag 1#2 d, 1#15, 0#4⟩
  | .image => ⟨oneUnitTag 2#2 0#4, 1#15, 0#4⟩
  | .image2 => ⟨oneUnitTag 3#2 0#4, 1#15, 0#4⟩

/-- The state with unit u as the one qword of a feed call on path 0, in the parser state it needs, and not stuck (log 14). -/
def State.withUnit (s : State) (u : StreamUnit) : State :=
  { s with path0 := pathFor u.ctx, feed := ⟨.p0, [u.bits], false⟩, fault := none, refused := none }

/-- The state with the unit of a table word as its next unit (log 14). -/
def State.withTableWord (s : State) (nbits w : Nat) : State :=
  match unitOfTableWord nbits w with
  | some u => s.withUnit u
  | none => s

end Sys2Proof.Machine
end

