-- ==== Sys2Proof/Machine/Step.lean ====
section
/-! DEFINITION. One step: of a stuck block, of the feed call in progress, or of the next host call. -/

namespace Sys2Proof.Machine

/-- One step (40_gif_decoder R170, 70 R450; log 2, log 3). -/
def step (s : State) : Host.Outcome State Fault Refusal :=
  if s.stuck then stuckStep s
  else match s.feed.qwords with
    | q :: _ => unitStep s q
    | [] => callStep s

/-- The state in which the next step runs the instruction of a table word (log 14). -/
def State.withFetchWord (s : State) (nbits w : Nat) : State := s.withTableWord nbits w

end Sys2Proof.Machine
end

