-- ==== Sys2Proof/Safety.lean ====
section
/-! DEFINITION. What is true of every state a run can reach: the invariants the spec states of its state (10_state R36, R43,
R44, R45, R47, 42_vertex_kick R313, 43_flush_draw R343), the canonical form of memory, and the safe states. -/

namespace Sys2Proof.Machine

/-! ## Registers -/

/-- Every reserved bit of every environment register is 0 (10_state R36). -/
def Env.reservedClear (e : Env) : Prop := ∀ r : EnvReg, e.get r &&& ~~~r.mask = 0

/-- Every reserved bit of every register of a context is 0 (10_state R36). -/
def Ctx.reservedClear (c : Ctx) : Prop := ∀ r : CtxReg, c.get r &&& ~~~r.mask = 0

/-- The registers, and the copies a transfer has latched, have their reserved bits 0 (10_state R36, R47). -/
structure Image.ReservedClear (b : Image) : Prop where
  env : b.env.reservedClear
  ctx0 : b.ctx0.reservedClear
  ctx1 : b.ctx1.reservedClear
  blit : b.xfer.blit &&& ~~~EnvReg.bitbltbuf.mask = 0
  pos : b.xfer.pos &&& ~~~EnvReg.trxpos.mask = 0

/-! ## The vertex queue -/

/-- The cursors and the indices, whatever the topology (42_vertex_kick R313, 10_state R43, R44). -/
structure VertexQueue.CursorsOk (q : VertexQueue) : Prop where
  head_le : q.head ≤ q.vbuf.length
  next_le : q.next ≤ q.vbuf.length
  /-- every index names a slot below `next` -/
  index_lt : ∀ i ∈ q.ibuf, i < q.next

/-- Between kicks, the vertices of a partial primitive are fewer than the topology needs, but for the fan; a list keeps nothing between
`next` and `head` (42_vertex_kick R313); the indices are whole primitives (43_flush_draw R343), and there are none while type 7 is
discarded (43_flush_draw R355). -/
structure VertexQueue.Between (q : VertexQueue) (t : Topology) : Prop where
  whole : q.ibuf.length % t.verts = 0
  partialFew : t.group ≠ .fan → q.vbuf.length - q.head < t.verts
  listNext : t.group = .list → q.next ≤ q.head
  discardNone : t.group = .discard → q.ibuf = []

/-! ## The window -/

/-- A position is a pair of signed 18-bit integers (10_state R45). -/
structure XY.Ok (p : XY) : Prop where
  x_ge : -131072 ≤ p.sx
  x_lt : p.sx < 131072
  y_ge : -131072 ≤ p.sy
  y_lt : p.sy < 131072

/-- Every entry of the window is (10_state R45). -/
structure Window.Ok (w : Window) : Prop where
  e0 : w.e0.Ok
  e1 : w.e1.Ok
  e2 : w.e2.Ok
  e3 : w.e3.Ok

/-! ## The transfer engine -/

/-- The engine's fields in every mode (10_state R47): before the first TRXDIR write the rectangle is 0 by 0 (R53). -/
structure Xfer.InRange (x : Xfer) : Prop where
  w_le : x.w ≤ 4095
  h_le : x.h ≤ 4095
  cursor : (x.w = 0 ∧ x.h = 0 ∧ x.cx = 0 ∧ x.cy = 0) ∨ (1 ≤ x.w ∧ 1 ≤ x.h ∧ x.cx < x.w ∧ x.cy ≤ x.h)
  bpp : x.bpp ∈ [0, 4, 8, 16, 24, 32]
  done_le : x.done ≤ x.total
  total_lt : x.total < 2 ^ 32

/-- The transfer engine's fields (10_state R47): ranges, and what the mode asks of them. -/
structure Xfer.Ok (x : Xfer) : Prop where
  range : x.InRange
  idle : x.mode = .idle → x.pbits = 0 ∧ x.pcount = 0
  size : x.mode ≠ .idle → 1 ≤ x.w
  bppWrite : x.mode = .write → x.bpp = pixelBits (knownPsm (dpsm x.blit))
  bppRead : x.mode = .read → x.bpp = pixelBits (knownPsm (spsm x.blit))
  count : x.mode ≠ .idle → x.total ≤ (x.w * x.h * x.bpp + 7) / 8
  /-- a Write holds less than one pixel (44_transfer R373) -/
  write : x.mode = .write → x.pcount < x.bpp
  /-- a Read holds at most what one pixel can leave -/
  read : x.mode = .read → x.pcount ≤ 31
  bits : x.pbits.toNat < 2 ^ x.pcount

/-! ## The state -/

/-- The queue holds no more than the capacities (10_state R43, 42_vertex_kick R310). -/
structure VertexQueue.Fits (q : VertexQueue) (cfg : Cfg) : Prop where
  verts : exceeds cfg.vbufMax q.vbuf.length = false
  indices : exceeds cfg.ibufMax q.ibuf.length = false

/-- What Freeze can save of a reachable state that is not stuck; `Image.legal` decides it. -/
structure Image.Ok (cfg : Cfg) (b : Image) : Prop where
  reserved : b.ReservedClear
  cursors : b.vq.CursorsOk
  between : b.vq.Between (b.topology cfg.prim7)
  fits : b.vq.Fits cfg
  win : b.win.Ok
  xfer : b.xfer.Ok

/-- Reserved bits are 0. -/
def State.ReservedClear (s : State) : Prop := (imageOf s).ReservedClear

/-- The vertex queue's invariant. A fault can leave a completed primitive unresolved (60_exceptions R416), so the part that holds
between kicks is asked of a state without a fault. -/
structure State.QueueOk (s : State) : Prop where
  cursors : s.vq.CursorsOk
  fits : s.vq.Fits s.cfg
  between : s.fault = none → s.vq.Between s.topology

/-- A stuck block holds no rest of a feed call (60_exceptions R401). -/
def State.StuckIdle (s : State) : Prop := s.stuck = true → s.feed.qwords = []

/-- A block that has not stopped, in a state a run can reach. -/
structure State.Safe (s : State) : Prop where
  running : s.stuck = false
  reserved : s.ReservedClear
  queue : s.QueueOk
  win : s.win.Ok
  xfer : s.xfer.Ok
  mem : s.mem.wf = true

end Sys2Proof.Machine
end

