-- ==== Sys2Proof/Certificates/Slice0/Obligations.lean ====
section
/-! DEFINITION. The statements for the provers, and the tables and abbreviations they are written with. The tables are written out here
from the spec (field positions, the instructions that write a register, the operands of a position write), not taken from the model. -/

namespace Sys2Proof.Machine

/-! ## Fields of registers, as (high bit, low bit) (10_state R55 to R78) -/

def EnvReg.fieldTable : EnvReg → List (Nat × Nat)
  | .prim => [(2, 0), (3, 3), (4, 4), (5, 5), (6, 6), (7, 7), (8, 8), (9, 9), (10, 10)]
  | .prmodecont => [(0, 0)]
  | .prmode => [(3, 3), (4, 4), (5, 5), (6, 6), (7, 7), (8, 8), (9, 9), (10, 10)]
  | .texclut => [(5, 0), (11, 6), (21, 12)]
  | .scanmsk => [(1, 0)]
  | .texa => [(7, 0), (15, 15), (39, 32)]
  | .fogcol => [(7, 0), (15, 8), (23, 16)]
  | .dimx => (List.range 16).map fun k => (4 * k + 2, 4 * k)
  | .dthe => [(0, 0)]
  | .colclamp => [(0, 0)]
  | .pabe => [(0, 0)]
  | .bitbltbuf => [(13, 0), (21, 16), (29, 24), (45, 32), (53, 48), (61, 56)]
  | .trxpos => [(10, 0), (26, 16), (42, 32), (58, 48), (59, 59), (60, 60)]
  | .trxreg => [(11, 0), (43, 32)]
  | .trxdir => [(1, 0)]

def CtxReg.fieldTable : CtxReg → List (Nat × Nat)
  | .xyoffset => [(15, 0), (47, 32)]
  | .tex0 => [(13, 0), (19, 14), (25, 20), (29, 26), (33, 30), (34, 34), (36, 35), (50, 37), (54, 51), (55, 55), (60, 56), (63, 61)]
  | .tex1 => [(0, 0), (4, 2), (5, 5), (8, 6), (9, 9), (20, 19), (43, 32)]
  | .clamp => [(1, 0), (3, 2), (13, 4), (23, 14), (33, 24), (43, 34)]
  | .miptbp1 => [(13, 0), (19, 14), (33, 20), (39, 34), (53, 40), (59, 54)]
  | .miptbp2 => [(13, 0), (19, 14), (33, 20), (39, 34), (53, 40), (59, 54)]
  | .scissor => [(10, 0), (26, 16), (42, 32), (58, 48)]
  | .alpha => [(1, 0), (3, 2), (5, 4), (7, 6), (39, 32)]
  | .test => [(0, 0), (3, 1), (11, 4), (13, 12), (14, 14), (15, 15), (16, 16), (18, 17)]
  | .fba => [(0, 0)]
  | .frame => [(8, 0), (21, 16), (29, 24), (63, 32)]
  | .zbuf => [(8, 0), (27, 24), (32, 32)]

/-- The TEX0 fields a TEX2 write replaces (41_register_dispatch R245). -/
def tex2Fields : List (Nat × Nat) := [(25, 20), (50, 37), (54, 51), (55, 55), (60, 56), (63, 61)]

/-- Bit i lies in one of the fields. -/
def inFields (fs : List (Nat × Nat)) (i : Nat) : Bool := fs.any fun f => f.2 ≤ i && i ≤ f.1

/-- w holds v's bits in the fields and 0 elsewhere (10_state R36). -/
def storesFields (fs : List (Nat × Nat)) (v w : Word64) : Prop := ∀ i, w.getLsbD i = (inFields fs i && v.getLsbD i)

/-- w holds v's bits in the fields and old's elsewhere. -/
def mergesFields (fs : List (Nat × Nat)) (old v w : Word64) : Prop :=
  ∀ i, w.getLsbD i = if inFields fs i then v.getLsbD i else old.getLsbD i

/-! ## The instructions that write a register (30_encoding R120, R140) -/

/-- Every instruction that writes context register r of context c through CAWrite with the 64-bit value v. -/
def ctxRows (r : CtxReg) (c : CtxId) (v : Word64) : List Instr :=
  match r, c with
  | .xyoffset, .c0 => [.adXyoffset_1 v]
  | .xyoffset, .c1 => [.adXyoffset_2 v]
  | .tex0, .c0 => [.adTex0_1 v, .packedTex0_1 v, .reglistTex0_1 v]
  | .tex0, .c1 => [.adTex0_2 v, .packedTex0_2 v, .reglistTex0_2 v]
  | .tex1, .c0 => [.adTex1_1 v]
  | .tex1, .c1 => [.adTex1_2 v]
  | .clamp, .c0 => [.adClamp_1 v, .packedClamp_1 v, .reglistClamp_1 v]
  | .clamp, .c1 => [.adClamp_2 v, .packedClamp_2 v, .reglistClamp_2 v]
  | .miptbp1, .c0 => [.adMiptbp1_1 v]
  | .miptbp1, .c1 => [.adMiptbp1_2 v]
  | .miptbp2, .c0 => [.adMiptbp2_1 v]
  | .miptbp2, .c1 => [.adMiptbp2_2 v]
  | .scissor, .c0 => [.adScissor_1 v]
  | .scissor, .c1 => [.adScissor_2 v]
  | .alpha, .c0 => [.adAlpha_1 v]
  | .alpha, .c1 => [.adAlpha_2 v]
  | .test, .c0 => [.adTest_1 v]
  | .test, .c1 => [.adTest_2 v]
  | .fba, .c0 => [.adFba_1 v]
  | .fba, .c1 => [.adFba_2 v]
  | .frame, .c0 => [.adFrame_1 v]
  | .frame, .c1 => [.adFrame_2 v]
  | .zbuf, .c0 => [.adZbuf_1 v]
  | .zbuf, .c1 => [.adZbuf_2 v]

/-- The instruction that writes environment register r through CAWrite; PRIM, PRMODE and TRXDIR have rules of their own. -/
def envRows (r : EnvReg) (v : Word64) : List Instr :=
  match r with
  | .prim => []
  | .prmodecont => [.adPrmodecont v]
  | .prmode => []
  | .texclut => [.adTexclut v]
  | .scanmsk => [.adScanmsk v]
  | .texa => [.adTexa v]
  | .fogcol => [.adFogcol v]
  | .dimx => [.adDimx v]
  | .dthe => [.adDthe v]
  | .colclamp => [.adColclamp v]
  | .pabe => [.adPabe v]
  | .bitbltbuf => [.adBitbltbuf v]
  | .trxpos => [.adTrxpos v]
  | .trxreg => [.adTrxreg v]
  | .trxdir => []

/-- The TEX2 write of a context. -/
def tex2Row (c : CtxId) (v : Word64) : Instr :=
  match c with
  | .c0 => .adTex2_1 v
  | .c1 => .adTex2_2 v

/-- Every instruction that applies the low 11 bits of v to PRIM. -/
def primRows (v : Word64) : List Instr := [.adPrim v, .reglistPrim v, .packedPrim (bits v 0 11)]

/-! ## Position writes (40_gif_decoder R184, R185, R192, R193; 41_register_dispatch R234, R235, R241, R242) -/

/-- The operands of a kick; f is none for the forms that do not write F. -/
structure KickArgs where
  x : BitVec 16
  y : BitVec 16
  z : BitVec 32
  f : Option (BitVec 8)
  skip : Bool
  deriving DecidableEq, Repr

/-- X[15:0] Y[31:16] Z[55:32] F[63:56] (10_state R79). -/
def xyzfArgs (v : Word64) (skip : Bool) : KickArgs := ⟨bits v 0 16, bits v 16 16, (bits v 32 24).setWidth 32, some (bits v 56 8), skip⟩

/-- X[15:0] Y[31:16] Z[63:32] (10_state R79). -/
def xyzArgs (v : Word64) (skip : Bool) : KickArgs := ⟨bits v 0 16, bits v 16 16, bits v 32 32, none, skip⟩

/-- The kick an instruction makes, if it is a position write. -/
def kickOf (i : Instr) : Option KickArgs :=
  match i with
  | .adXyzf2 v => some (xyzfArgs v false)
  | .adXyz2 v => some (xyzArgs v false)
  | .adXyzf3 v => some (xyzfArgs v true)
  | .adXyz3 v => some (xyzArgs v true)
  | .reglistXyzf2 v => some (xyzfArgs v false)
  | .reglistXyz2 v => some (xyzArgs v false)
  | .reglistXyzf3 v => some (xyzfArgs v true)
  | .reglistXyz3 v => some (xyzArgs v true)
  | .packedXyzf2 x y z f adc => some ⟨x, y, z.setWidth 32, some f, adc⟩
  | .packedXyz2 x y z adc => some ⟨x, y, z, none, adc⟩
  | .packedXyzf3 x y z f => some ⟨x, y, z.setWidth 32, some f, true⟩
  | .packedXyz3 x y z => some ⟨x, y, z, none, true⟩
  | _ => none

/-- The accumulator after a position write: F, for the forms that write it. -/
def KickArgs.acc (k : KickArgs) (a : VAcc) : VAcc :=
  match k.f with
  | some f => { a with f := f }
  | none => a

/-- The vertex a kick appends. -/
def KickArgs.vertex (k : KickArgs) (s : State) : Vertex := ⟨k.x, k.y, k.z, k.acc s.vacc⟩

/-- The vertices after the append. -/
def KickArgs.verts (k : KickArgs) (s : State) : List Vertex := s.vq.vbuf ++ [k.vertex s]

/-- The window after a kick: the position less the offset of the active context (42_vertex_kick R304). -/
def KickArgs.window (k : KickArgs) (s : State) : Window :=
  let offset := (s.ctx s.actx).xyoffset
  s.win.push ⟨(k.x.toNat : Int) - (bits offset 0 16).toNat, (k.y.toNat : Int) - (bits offset 32 16).toNat⟩

/-- The state after steps 1 and 2 of a kick (42_vertex_kick R302). -/
def KickArgs.appended (k : KickArgs) (s : State) : State :=
  { s with vacc := k.acc s.vacc, vq := { s.vq with vbuf := k.verts s }, win := k.window s }

/-- The live window after the append. -/
def KickArgs.live (_k : KickArgs) (s : State) : Nat := s.vq.vbuf.length + 1 - s.vq.head

/-- n items fit in a capacity. -/
def fits (cap : Option Nat) (n : Nat) : Prop := ∀ c, cap = some c → n ≤ c

/-- A kick that runs and has room for its vertex. -/
structure KickRuns (i : Instr) (k : KickArgs) (s : State) : Prop where
  operands : kickOf i = some k
  enabled : s.cfg.kickEnabled = true
  room : fits s.cfg.vbufMax (s.vq.vbuf.length + 1)

/-- The queue after the accept of a primitive, by topology: vb is the buffer with the new vertex (42_vertex_kick R309). -/
def acceptedQueue (t : Topology) (vb : List Vertex) (h nx : Nat) (ib : List Nat) (q : VertexQueue) : Prop :=
  match t with
  | .pointList => q = ⟨vb, h + 1, h + 1, ib ++ [h]⟩
  | .lineList => q = ⟨vb, h + 2, h + 2, ib ++ [h, h + 1]⟩
  | .sprite => q = ⟨vb, h + 2, h + 2, ib ++ [h, h + 1]⟩
  | .triangleList => q = ⟨vb, h + 3, h + 3, ib ++ [h, h + 1, h + 2]⟩
  | .lineStrip =>
    (h ≤ nx → q = ⟨vb, h + 1, h + 2, ib ++ [h, h + 1]⟩) ∧
    (nx < h → q = ⟨vb.take nx ++ (vb.drop h).take 2, nx + 1, nx + 2, ib ++ [nx, nx + 1]⟩)
  | .triangleStrip =>
    (h ≤ nx → q = ⟨vb, h + 1, h + 3, ib ++ [h, h + 1, h + 2]⟩) ∧
    (nx < h → q = ⟨vb.take nx ++ (vb.drop h).take 3, nx + 1, nx + 3, ib ++ [nx, nx + 1, nx + 2]⟩)
  | .triangleFan => q = ⟨vb, h, vb.length, ib ++ [h, vb.length - 2, vb.length - 1]⟩
  | .invalid => False

/-- The queue after a reject, by topology (42_vertex_kick R308). -/
def rejectedQueue (t : Topology) (vb : List Vertex) (h nx : Nat) (ib : List Nat) : VertexQueue :=
  match t with
  | .pointList | .lineList | .triangleList | .sprite | .invalid => ⟨vb.take h, h, nx, ib⟩
  | .lineStrip | .triangleStrip => ⟨vb, h + 1, nx, ib⟩
  | .triangleFan => ⟨vb, h, nx, ib⟩

/-- `SCISSOR_BOX` of the active context: the default formula, or the parameter (42_vertex_kick R306; log 17). -/
def boxOf (s : State) : Box :=
  let c := s.ctx s.actx
  match s.cfg.scissorBox with
  | .standard => ⟨16 * (bits c.scissor 0 11).toNat, 16 * (bits c.scissor 16 11).toNat + 15, 16 * (bits c.scissor 32 11).toNat,
      16 * (bits c.scissor 48 11).toNat + 15⟩
  | .other n => Config.otherScissorBox n c

/-- `HAZARD` of the active context: the default formula, or the parameter (42_vertex_kick R311; log 17). -/
def meetsHazard (s : State) : Prop :=
  let c := s.ctx s.actx
  match s.cfg.hazard with
  | .standard => bit s.attr 1 = true ∧ 32 * (bits c.frame 0 9).toNat = (bits c.tex0 0 14).toNat
  | .other n => Config.otherHazard n c s.attr = true

/-- A complete primitive that passes the trivial-rejection test and whose indices fit. -/
structure KickAccepts (k : KickArgs) (s : State) : Prop where
  complete : s.topology.verts ≤ k.live s
  drawn : k.skip = false
  inside : reject (k.appended s) s.topology (k.live s) = false
  room : fits s.cfg.ibufMax (s.vq.ibuf.length + s.topology.verts)

/-! ## Events of a flush (43_flush_draw R342, R343, R354) -/

/-- The Draw of the pending group, as the state stands. -/
def pendingDraw (s : State) : Event :=
  .draw { env := s.env, ctx := s.ctx s.actx, actx := s.actx, attr := s.attr } s.vq.vbuf s.vq.ibuf s.topology.cls

/-- The error event of a failed Draw. -/
def failureEvents (ok : Bool) : List Event := if ok then [] else [.error .rendererFailed]

/-- The registers a Draw is made under: everything of the snapshot but PRIM and PRMODE as registers, which count through the
attributes in effect, the active context and the class (41_register_dispatch R286). -/
def inEffect (s : State) : Env × Ctx × CtxId × BitVec 8 × PrimClass :=
  ({ s.env with prim := 0, prmode := 0 }, s.ctx s.actx, s.actx, s.attr, s.topology.cls)

/-! ## The transfer engine (30_encoding R165, 44_transfer) -/

/-- `TRBPP` and the storage width, with PSMCT32 for a code the table does not list (30_encoding R165, 44_transfer R361). -/
def trbpp (psm : BitVec 6) : Nat :=
  ([(0x00, 32), (0x01, 24), (0x02, 16), (0x0A, 16), (0x13, 8), (0x14, 4), (0x1B, 8), (0x24, 4), (0x2C, 4), (0x30, 32), (0x31, 24),
    (0x32, 16), (0x3A, 16)].lookup psm.toNat).getD 32

/-- `psm'` (44_transfer R361). -/
def listedPsm (psm : BitVec 6) : BitVec 6 :=
  if psm.toNat ∈ [0x00, 0x01, 0x02, 0x0A, 0x13, 0x14, 0x1B, 0x24, 0x2C, 0x30, 0x31, 0x32, 0x3A] then psm else 0x00#6

/-- The engine after the latching of a TRXDIR write, for a mode and its bits per pixel (44_transfer R362, R365). -/
def armedXfer (s : State) (mode : XferMode) (bpp : Nat) : Xfer :=
  let w := max (bits s.env.trxreg 0 12).toNat 1
  let h := max (bits s.env.trxreg 32 12).toNat 1
  { mode := mode, blit := s.env.bitbltbuf, pos := s.env.trxpos, w := w, h := h, bpp := bpp, cx := 0, cy := 0, done := 0,
    total := min ((w * h * bpp + 7) / 8) s.cfg.stagingCap, pbits := 0, pcount := 0, overflow := false }

/-- The engine after a TRXDIR write that arms nothing: bpp and total keep their values (44_transfer R362). -/
def idleXfer (s : State) : Xfer := { armedXfer s .idle s.xfer.bpp with total := s.xfer.total }

/-- The fields of BITBLTBUF and TRXPOS that a transfer reads, by name (10_state R64, R65). -/
def TransferFields : Prop :=
  (∀ b : Word64, sbp b = (bits b 0 14).toNat ∧ sbw b = (bits b 16 6).toNat ∧ spsm b = bits b 24 6 ∧ dbp b = (bits b 32 14).toNat ∧
    dbw b = (bits b 48 6).toNat ∧ dpsm b = bits b 56 6) ∧
  ∀ p : Word64, ssax p = (bits p 0 11).toNat ∧ ssay p = (bits p 16 11).toNat ∧ dsax p = (bits p 32 11).toNat ∧
    dsay p = (bits p 48 11).toNat ∧ diry p = bit p 59 ∧ dirx p = bit p 60

/-! ### Pixels in local memory (20_memory R86 to R89) -/

/-- `BLOCK32` and `COLUMN32` (20_memory R87), row after row. -/
def block32Table : List Nat :=
  [0, 1, 4, 5, 16, 17, 20, 21,    2, 3, 6, 7, 18, 19, 22, 23,    8, 9, 12, 13, 24, 25, 28, 29,    10, 11, 14, 15, 26, 27, 30, 31]
def column32Table : List Nat :=
  [0, 1, 4, 5, 8, 9, 12, 13,          2, 3, 6, 7, 10, 11, 14, 15,         16, 17, 20, 21, 24, 25, 28, 29,     18, 19, 22, 23, 26, 27, 30, 31,
   32, 33, 36, 37, 40, 41, 44, 45,    34, 35, 38, 39, 42, 43, 46, 47,     48, 49, 52, 53, 56, 57, 60, 61,     50, 51, 54, 55, 58, 59, 62, 63]

/-- `word32` (20_memory R86). -/
def wordAt (bp bw x y : Nat) : Nat :=
  4 * ((bp + y / 32 * bw * 32 + x / 64 * 32 + block32Table.getD (y / 8 % 4 * 8 + x / 8 % 8) 0) % 16384 * 64 +
    column32Table.getD (y % 8 * 8 + x % 8) 0)

/-- The lowest bit in the formats whose place the spec gives: PSMCT32, PSMCT24, PSMT8H, PSMT4HL and PSMT4HH (20_memory R86). -/
def placedFormats : List (BitVec 6 × Nat) := [(0x00, 0), (0x01, 0), (0x1B, 24), (0x24, 24), (0x2C, 28)]

/-- Where a pixel lives (20_memory R86, R87, R88): in the five formats, the formula in a word of 4 bytes; in the others, different
pixels have different places; and in all of them the pixel's bits lie in its word. -/
def PixelPlaces : Prop :=
  (∀ f ∈ placedFormats, ∀ bp bw x y, pixelLoc f.1 bp bw x y = ⟨wordAt bp bw (x % 2048) (y % 2048), f.2, 4⟩) ∧
  (∀ psm, psm ∉ placedFormats.map Prod.fst → ∀ bp bw x y x' y', (pixelLoc psm bp bw x y).addr = (pixelLoc psm bp bw x' y').addr →
    (pixelLoc psm bp bw x y).lo = (pixelLoc psm bp bw x' y').lo → x % 2048 = x' % 2048 ∧ y % 2048 = y' % 2048) ∧
  ∀ psm bp bw x y, (pixelLoc psm bp bw x y).lo + trbpp psm ≤ 8 * (pixelLoc psm bp bw x y).bytes

/-- Byte address a and bit j are bit i of the pixel at loc, the address modulo the size of local memory (20_memory R86, R89). -/
abbrev holdsPixelBit (loc : PixelLoc) (i a j : Nat) : Prop := (a - (loc.addr + (loc.lo + i) / 8) : Int) % 4194304 = 0 ∧ j = (loc.lo + i) % 8

/-- Reading and writing a pixel (20_memory R88, R89): a read gives the n bits of its place, zero-extended; a write puts the low n bits
of the value there and keeps every other bit of the word and of local memory; a read after it gives the value modulo 2^n. -/
def PixelAccess : Prop :=
  ∀ (m : Memory) (psm : BitVec 6) (bp bw x y : Nat) (v : BitVec 32),
    let loc := pixelLoc psm bp bw x y
    let n := trbpp psm
    let w := writePixel m psm bp bw x y v
    (∀ i a j, i < n → holdsPixelBit loc i a j → (readPixel m psm bp bw x y).getLsbD i = (m.load a).getLsbD j) ∧
    (∀ i, n ≤ i → (readPixel m psm bp bw x y).getLsbD i = false) ∧
    (∀ i a j, i < n → holdsPixelBit loc i a j → (w.load a).getLsbD j = v.getLsbD i) ∧
    (∀ a j, (∀ i < n, ¬ holdsPixelBit loc i a j) → (w.load a).getLsbD j = (m.load a).getLsbD j) ∧
    readPixel w psm bp bw x y = BitVec.ofNat 32 (v.toNat % 2 ^ n)

/-! ### The rectangles -/

/-- The place of pixel k of a Write's rectangle, in raster order (44_transfer R364). -/
def destPixel (x : Xfer) (k : Nat) : PixelLoc :=
  pixelLoc (listedPsm (dpsm x.blit)) (dbp x.blit) (dbw x.blit) ((dsax x.pos + k % x.w) % 2048) ((dsay x.pos + k / x.w) % 2048)

/-- Writing pixel k of a Write's rectangle. -/
def writeDest (x : Xfer) (m : Memory) (k : Nat) (v : BitVec 32) : Memory :=
  writePixel m (listedPsm (dpsm x.blit)) (dbp x.blit) (dbw x.blit) ((dsax x.pos + k % x.w) % 2048) ((dsay x.pos + k / x.w) % 2048) v

/-- Reading pixel k of a Read's rectangle. -/
def readSource (x : Xfer) (m : Memory) (k : Nat) : BitVec 32 :=
  readPixel m (listedPsm (spsm x.blit)) (sbp x.blit) (sbw x.blit) ((ssax x.pos + k % x.w) % 2048) ((ssay x.pos + k / x.w) % 2048)

/-- The next pixel's number in raster order. -/
def cursorPixel (x : Xfer) : Nat := x.cy * x.w + x.cx

/-- `MOVE_CONVERT` from format sp to format dp: the default, or the parameter (44_transfer R376; log 17). -/
def converted (f : Formula) (sp dp : BitVec 6) (v : BitVec 32) : BitVec 32 :=
  match f with
  | .standard => if trbpp sp = trbpp dp then v else BitVec.ofNat 32 (v.toNat % 2 ^ trbpp dp)
  | .other n => if listedPsm sp = listedPsm dp then v else Config.otherMoveConvert n (listedPsm sp) (listedPsm dp) v

/-- One pixel of a Move: read, convert, write (44_transfer R374, R376). -/
def copyPixel (f : Formula) (b p : Word64) (m : Memory) (i j : Nat) : Memory :=
  let v := readPixel m (listedPsm (spsm b)) (sbp b) (sbw b) ((ssax p + i) % 2048) ((ssay p + j) % 2048)
  writePixel m (listedPsm (dpsm b)) (dbp b) (dbw b) ((dsax p + i) % 2048) ((dsay p + j) % 2048)
    (converted f (spsm b) (dpsm b) v)

/-- 0 .. n-1, or n-1 .. 0 (44_transfer R374). -/
def steps (decreasing : Bool) (n : Nat) : List Nat := if decreasing then (List.range n).reverse else List.range n

/-- Local memory after a Move: rows in the DIRY order, each in the DIRX order (44_transfer R374). -/
def copyRows (f : Formula) (b p : Word64) (w h : Nat) (m : Memory) : Memory :=
  (steps (diry p) h).foldl (fun m j => (steps (dirx p) w).foldl (fun m i => copyPixel f b p m i j) m) m

/-- The hooks of a transfer (44_transfer R381). -/
def sourceHook (x : Xfer) : Event := .invalidateLocalMem x.blit ⟨ssax x.pos, ssay x.pos, x.w, x.h⟩
def destHook (x : Xfer) : Event := .invalidateVideoMem x.blit ⟨dsax x.pos, dsay x.pos, x.w, x.h⟩

/-- The cursor k pixels on, in raster order (44_transfer R364). -/
def cursorOn (x : Xfer) (k : Nat) : Xfer := { x with cx := (cursorPixel x + k) % x.w, cy := (cursorPixel x + k) / x.w }

/-- The end of a transfer (44_transfer R369). -/
def ended (x : Xfer) : Xfer := { x with mode := .idle, pbits := 0, pcount := 0 }

/-! ### Data of a Write (44_transfer R366, R367, R369, R372, R373), in any format and at any bit of a pixel -/

/-- A Write that still takes data. -/
structure WriteArmed (x : Xfer) : Prop where
  ok : x.Ok
  mode : x.mode = .write
  more : x.done < x.total

/-- How many of the next n bytes it takes; the others are dropped. -/
def takenBytes (x : Xfer) (n : Nat) : Nat := min n (x.total - x.done)

/-- The bits that wait, and above them those of the bytes taken from an n-byte value v, its low byte first. -/
def bitsWith (x : Xfer) (n v : Nat) : Nat := x.pbits.toNat + v % 2 ^ (8 * takenBytes x n) * 2 ^ x.pcount

/-- The pixels they complete, and how many of these lie inside the rectangle. -/
def completed (x : Xfer) (n : Nat) : Nat := (x.pcount + 8 * takenBytes x n) / x.bpp
def stored (x : Xfer) (n : Nat) : Nat := min (completed x n) (x.w * x.h - cursorPixel x)

/-- Local memory with those pixels written from the cursor on. -/
def fillPixels (x : Xfer) (n v : Nat) (m : Memory) : Memory :=
  (List.range (stored x n)).foldl
    (fun m k => writeDest x m (cursorPixel x + k) (BitVec.ofNat 32 (bitsWith x n v / 2 ^ (x.bpp * k) % 2 ^ x.bpp))) m

/-- The engine after the data: the cursor and the byte count have moved on, the bits of an incomplete pixel wait, a dropped byte is
remembered; the last byte ends the transfer. -/
def xferAfterData (x : Xfer) (n v : Nat) : Xfer :=
  let y := { cursorOn x (stored x n) with done := x.done + takenBytes x n, overflow := x.overflow || decide (takenBytes x n < n) }
  if x.done + takenBytes x n = x.total then ended y
  else { y with
    pbits := BitVec.ofNat 39 (bitsWith x n v / 2 ^ (x.bpp * completed x n))
    pcount := x.pcount + 8 * takenBytes x n - x.bpp * completed x n }

/-- The state after the data: the pending group is drawn before the first pixel is written; the first dropped byte is logged, and a
completed pixel announces the destination. -/
def afterData (n v : Nat) (s : State) : State :=
  let x := s.xfer
  let f := if 0 < stored x n then flush s else s
  { f with
    mem := fillPixels x n v f.mem
    xfer := xferAfterData x n v
    out := f.out ++ (if takenBytes x n < n ∧ x.overflow = false then [.log .transferOverflow] else []) ++
      (if 0 < completed x n then [destHook x] else []) }

/-! ### Bytes of a Read (44_transfer R364, R368, R369, R377), in any format and at any bit of a pixel -/

/-- A Read that still gives bytes. -/
structure ReadArmed (x : Xfer) : Prop where
  ok : x.Ok
  mode : x.mode = .read
  more : x.done < x.total

/-- How many of the next n bytes it gives; the others are free. -/
def givenBytes (x : Xfer) (n : Nat) : Nat := min n (x.total - x.done)

/-- The pixels whose first bit those bytes need, as far as the rectangle goes. -/
def fetched (x : Xfer) (n : Nat) : Nat :=
  min ((8 * givenBytes x n - x.pcount + x.bpp - 1) / x.bpp) (x.w * x.h - cursorPixel x)

/-- The bits that wait, and above them those of the pixels fetched from memory m; zeros above (the padding). -/
def bitsOf (x : Xfer) (n : Nat) (m : Memory) : Nat :=
  x.pbits.toNat + 2 ^ x.pcount *
    (List.range (fetched x n)).foldl (fun b k => b + (readSource x m (cursorPixel x + k)).toNat * 2 ^ (x.bpp * k)) 0

/-- The bytes, low bits first. -/
def givenData (x : Xfer) (n : Nat) (m : Memory) : List Byte :=
  (List.range (givenBytes x n)).map fun j => BitVec.ofNat 8 (bitsOf x n m / 2 ^ (8 * j))

/-- The engine after the bytes: the cursor and the byte count have moved on, the bits not given wait; the last byte ends the
transfer. -/
def xferAfterRead (x : Xfer) (n : Nat) (m : Memory) : Xfer :=
  let y := { cursorOn x (fetched x n) with done := x.done + givenBytes x n }
  if x.done + givenBytes x n = x.total then ended y
  else { y with
    pbits := BitVec.ofNat 39 (bitsOf x n m / 2 ^ (8 * givenBytes x n))
    pcount := x.pcount + x.bpp * fetched x n - 8 * givenBytes x n }

/-! ## Steps -/

/-- A block that is not stuck, with a host call next. -/
structure AtCall (s : State) (c : HostCall) (rest : List HostCall) : Prop where
  running : s.stuck = false
  idle : s.feed.qwords = []
  next : s.calls = c :: rest

/-- A block that is not stuck, with qword q of a feed call next. -/
structure AtUnit (s : State) (q : Qword) (rest : List Qword) : Prop where
  running : s.stuck = false
  next : s.feed.qwords = q :: rest

/-- The cursor after StepReg (40_gif_decoder R174): it wraps at NREG, where 0 means 16, and the wrap counts one loop iteration. -/
def steppedPath (p : PathState) : PathState :=
  let n := if (bits p.tag 60 4).toNat = 0 then 16 else (bits p.tag 60 4).toNat
  if p.reg.toNat + 1 = n then ⟨p.tag, p.nloop - 1, 0⟩ else ⟨p.tag, p.nloop, p.reg + 1⟩

/-- What no register write touches: the vertex accumulator, internal Q, the window, the engine, the paths, the host's side, and the
stop conditions. -/
structure SameElsewhere (s t : State) : Prop where
  vacc : t.vacc = s.vacc
  qint : t.qint = s.qint
  win : t.win = s.win
  xfer : t.xfer = s.xfer
  path : ∀ p, t.path p = s.path p
  cfg : t.cfg = s.cfg
  calls : t.calls = s.calls
  feed : t.feed = s.feed
  blobs : t.blobs = s.blobs
  fault : t.fault = s.fault
  refused : t.refused = s.refused

/-- The queue, the events and every byte of memory are unchanged. -/
structure SameDrawing (s t : State) : Prop where
  vq : t.vq = s.vq
  out : t.out = s.out
  mem : ∀ a, t.mem.load a = s.mem.load a

/-- Every register of the environment and of both contexts is unchanged. -/
structure SameRegisters (s t : State) : Prop where
  env : t.env = s.env
  ctx : ∀ c, t.ctx c = s.ctx c

end Sys2Proof.Machine

open Sys2Proof Sys2Proof.Machine

/-! ## Encoding -/

/-- 30_encoding R110, R120, R121, R140: decoding an encoded well-formed instruction gives it back, with every operand at every value. -/
def Obligations.DecodeEncodeInverse : Prop := ∀ i : Instr, i.wellFormed = true → decode (encode i) = i

/-- 60_exceptions R403, 30_encoding R110, R116: every unit decodes to a well-formed instruction; a tag, an IMAGE qword and a REGLIST
value re-encode to the bits they were read from. -/
def Obligations.EveryUnitDecodes : Prop :=
  (∀ u : StreamUnit, (decode u).wellFormed = true) ∧
  (∀ q : Qword, encode (decode ⟨.tag, q⟩) = ⟨.tag, q⟩) ∧
  (∀ q : Qword, encode (decode ⟨.image, q⟩) = ⟨.image, q⟩ ∧ encode (decode ⟨.image2, q⟩) = ⟨.image2, q⟩) ∧
  (∀ (d : BitVec 4) (v : Word64), encode (decode (reglistUnit d v)) = reglistUnit d v)

/-- 30_encoding R151, R121, R140 and the examples of 40_gif_decoder: a few words decode to the instruction the spec names. -/
def Obligations.SampleWordsDecode : Prop :=
  decode ⟨.tag, 0x00000000000005123000000000008003#128⟩ =
    .giftagPacked { nloop := 3, eop := true, ignored := 0, pre := false, prim := 0, nreg := 3, regs := 0x512#64 } ∧
  decode ⟨.packed 0xE, 0x00000000000000000000000000000003#128⟩ = .adPrim 3 ∧
  decode ⟨.packed 0xE, 0x000000000000004001BF0000027F0000#128⟩ = .adScissor_1 0x01BF0000027F0000#64 ∧
  decode ⟨.packed 0x1, 0x00000080000000400000002000000010#128⟩ = .packedRgba 0x10 0x20 0x40 0x80 ∧
  decode ⟨.reglist 0x0, 0x6#128⟩ = .reglistPrim 6 ∧
  decode ⟨.packed 0xE, 0x000000000000007F00000000DEADBEEF#128⟩ = .packedAd 0x7F 0xDEADBEEF#64

/-- 30_encoding R121: the operands of every PACKED slot are its named bits, and no other bit of the slot counts. -/
def Obligations.PackedSlotFields : Prop :=
  ∀ q : Qword,
    decode ⟨.packed 0x0, q⟩ = .packedPrim (bits q 0 11) ∧
    decode ⟨.packed 0x1, q⟩ = .packedRgba (bits q 0 8) (bits q 32 8) (bits q 64 8) (bits q 96 8) ∧
    decode ⟨.packed 0x2, q⟩ = .packedStq (bits q 0 32) (bits q 32 32) (bits q 64 32) ∧
    decode ⟨.packed 0x3, q⟩ = .packedUv (bits q 0 14) (bits q 32 14) ∧
    decode ⟨.packed 0x4, q⟩ = .packedXyzf2 (bits q 0 16) (bits q 32 16) (bits q 68 24) (bits q 100 8) (bit q 111) ∧
    decode ⟨.packed 0x5, q⟩ = .packedXyz2 (bits q 0 16) (bits q 32 16) (bits q 64 32) (bit q 111) ∧
    decode ⟨.packed 0x6, q⟩ = .packedTex0_1 (bits q 0 64) ∧ decode ⟨.packed 0x7, q⟩ = .packedTex0_2 (bits q 0 64) ∧
    decode ⟨.packed 0x8, q⟩ = .packedClamp_1 (bits q 0 64) ∧ decode ⟨.packed 0x9, q⟩ = .packedClamp_2 (bits q 0 64) ∧
    decode ⟨.packed 0xA, q⟩ = .packedFog (bits q 100 8) ∧ decode ⟨.packed 0xB, q⟩ = .packedReservedB ∧
    decode ⟨.packed 0xC, q⟩ = .packedXyzf3 (bits q 0 16) (bits q 32 16) (bits q 68 24) (bits q 100 8) ∧
    decode ⟨.packed 0xD, q⟩ = .packedXyz3 (bits q 0 16) (bits q 32 16) (bits q 64 32) ∧
    decode ⟨.packed 0xE, q⟩ = decode (adUnit (bits q 64 7) (bits q 0 64)) ∧ decode ⟨.packed 0xF, q⟩ = .packedNop

/-! ## Steps of the decoder -/

/-- 40_gif_decoder R170, R175, R176: a step of a running block with a qword to process runs the decoded instruction at that state, and
then what follows it (`finishUnit`: the slot cursor, the way to the next unit, EOP). -/
def Obligations.StepRunsDecodedUnit : Prop :=
  ∀ (s t : State) (q : Qword) (rest : List Qword), AtUnit s q rest → exec (decode (fetchUnit s q)) s = .next t →
    step s = .next (finishUnit (unitCtx s) t)

/-- 40_gif_decoder R170: which unit is next. At a tag boundary the qword is a tag; inside a tag its FLG says the format, and the slot
cursor the descriptor. A REGLIST qword gives its low half first. -/
def Obligations.TagStateSelectsUnit : Prop :=
  ∀ (s : State) (q : Qword),
    (s.cur.nloop = 0#15 → fetchUnit s q = ⟨.tag, q⟩) ∧
    (s.cur.nloop ≠ 0#15 →
      let d := bits s.cur.tag (64 + 4 * s.cur.reg.toNat) 4
      (bits s.cur.tag 58 2 = 0#2 → fetchUnit s q = ⟨.packed d, q⟩) ∧
      (bits s.cur.tag 58 2 = 1#2 → s.feed.half = false → fetchUnit s q = reglistUnit d (bits q 0 64)) ∧
      (bits s.cur.tag 58 2 = 1#2 → s.feed.half = true → fetchUnit s q = reglistUnit d (bits q 64 64)) ∧
      (bits s.cur.tag 58 2 = 2#2 → fetchUnit s q = ⟨.image, q⟩) ∧
      (bits s.cur.tag 58 2 = 3#2 → fetchUnit s q = ⟨.image2, q⟩))

/-- 40_gif_decoder R174, R175: after a PACKED slot the cursor of its path has stepped, and the qword is through; the rest of the call
follows, unless the tag is complete and its EOP ends the call. -/
def Obligations.PackedSlotStepsCursor : Prop :=
  ∀ (s t : State) (q : Qword) (rest : List Qword), AtUnit s q rest → s.cur.nloop ≠ 0#15 → bits s.cur.tag 58 2 = 0#2 →
    exec (decode (fetchUnit s q)) s = .next t → t.stuck = false →
    ∃ u, step s = .next u ∧ u.path s.feed.path = steppedPath s.cur ∧ u.feed.path = s.feed.path ∧ u.feed.half = false ∧
      u.feed.qwords = (if (steppedPath s.cur).nloop = 0#15 ∧ bit s.cur.tag 15 = true ∧ s.feed.path.inMask s.cfg.eopTerminates = true
        then [] else rest)

/-- 40_gif_decoder R174, R176: after a REGLIST value the cursor has stepped. The low half leaves the high half of the same qword to do,
unless it completed the tag: then the high half is padding. -/
def Obligations.ReglistHalvesInOrder : Prop :=
  ∀ (s t : State) (q : Qword) (rest : List Qword), AtUnit s q rest → s.cur.nloop ≠ 0#15 → bits s.cur.tag 58 2 = 1#2 →
    exec (decode (fetchUnit s q)) s = .next t → t.stuck = false →
    ∃ u, step s = .next u ∧ u.path s.feed.path = steppedPath s.cur ∧
      (s.feed.half = false → (steppedPath s.cur).nloop ≠ 0#15 → u.feed = ⟨s.feed.path, q :: rest, true⟩) ∧
      (s.feed.half = true ∨ (steppedPath s.cur).nloop = 0#15 → u.feed = ⟨s.feed.path,
        if (steppedPath s.cur).nloop = 0#15 ∧ bit s.cur.tag 15 = true ∧ s.feed.path.inMask s.cfg.eopTerminates = true then [] else rest,
        false⟩)

/-- 40_gif_decoder R172: a tag with NLOOP = 0, of any format, is stored in its path and writes nothing else; the next qword of the call
is read as a tag, unless the EOP ends the call (R173). -/
def Obligations.EmptyTagTouchesOnlyItsPath : Prop :=
  ∀ (s : State) (q : Qword) (rest : List Qword), AtUnit s q rest → s.cur.nloop = 0#15 → bits q 0 15 = 0#15 →
    ∃ u, step s = .next u ∧ unitCtx u = .tag ∧
      u = { s.setPath s.feed.path ⟨q, 0, 0⟩ with
        feed := ⟨s.feed.path, if bit q 15 = true ∧ s.feed.path.inMask s.cfg.eopTerminates = true then [] else rest, false⟩ }

/-- 40_gif_decoder R173: after any unit that leaves its path at a tag boundary, EOP of the stored tag ends the feed call on a path where
it terminates, and otherwise the next qword is read as a tag. By default EOP terminates on path 0 alone. -/
def Obligations.EndOfPacketEndsCall : Prop :=
  (∀ (s u : State) (q : Qword) (rest : List Qword), AtUnit s q rest → step s = .next u → u.stuck = false →
    (u.path s.feed.path).nloop = 0#15 →
    unitCtx u = .tag ∧
      u.feed.qwords = (if bit (u.path s.feed.path).tag 15 = true ∧ s.feed.path.inMask s.cfg.eopTerminates = true then [] else rest)) ∧
  (∀ p : PathId, p.inMask Config.defaults.eopTerminates = true ↔ p = .p0)

/-- 10_state R31: a unit on one path reads and writes no other path's parser state: the others stay, and what a unit does to its own
path and to the rest of the state does not depend on them. -/
def Obligations.PathsAreIsolated : Prop :=
  ∀ (s t : State) (q : Qword) (rest : List Qword), AtUnit s q rest → step s = .next t →
    ∀ p, p ≠ s.feed.path → t.path p = s.path p ∧ ∀ v : PathState, step (s.setPath p v) = .next (t.setPath p v)

/-- 60_exceptions R403: no input faults in itself. Every instruction answers a next state from every state, and a step answers a fault
or a refusal only of a block that is stuck already and has no host call left. -/
def Obligations.EveryInstructionAnswersNext : Prop :=
  (∀ (i : Instr) (s : State), ∃ t, exec i s = .next t) ∧
  (∀ s : State, s.stuck = false ∨ s.calls ≠ [] → ∃ t, step s = .next t)

/-! ## Tags -/

/-- 40_gif_decoder R171: a tag loads its path's parser state; with NLOOP > 0 it sets the internal Q to 1.0, and a PACKED tag with
PRE = 1 then applies its PRIM field like a PACKED PRIM slot. PRE of any other format, and of a tag with NLOOP = 0, is ignored. -/
def Obligations.TagStartLoadsPath : Prop :=
  ∀ (t : TagFields) (s : State),
    let loaded := fun (flg : BitVec 2) => s.setPath s.feed.path ⟨encodeTag flg t, t.nloop, 0⟩
    let started := fun (flg : BitVec 2) => if t.nloop = 0 then loaded flg else { loaded flg with qint := 0x3F800000 }
    (t.pre = false ∨ t.nloop = 0 → exec (.giftagPacked t) s = .next (started 0)) ∧
    (t.pre = true → t.nloop ≠ 0 → exec (.giftagPacked t) s = exec (.packedPrim t.prim) (started 0)) ∧
    exec (.giftagReglist t) s = .next (started 1) ∧
    exec (.giftagImage (.tag t)) s = .next (started 2) ∧
    exec (.giftagImage2 (.tag t)) s = .next (started 3)

/-! ## Vertex accumulator -/

/-- 40_gif_decoder R181, R182, R183, R190, 41_register_dispatch R231, R232, R233, R240: the attribute writes, through PACKED slots, A+D
and REGLIST: each sets its fields of the accumulator and nothing else, but for the internal Q, which a PACKED STQ sets and a PACKED RGBA
copies. UV is stored as it comes when alternate rounding is off, and through UV_ROUND when it is on. -/
def Obligations.AttributeWrites : Prop :=
  ∀ s : State,
    (∀ r g b a, exec (.packedRgba r g b a) s = .next { s with vacc := { s.vacc with r := r, g := g, b := b, a := a, q := s.qint } }) ∧
    (∀ x t q, exec (.packedStq x t q) s = .next { s with vacc := { s.vacc with s := x, t := t }, qint := q }) ∧
    (∀ f, exec (.packedFog f) s = .next { s with vacc := { s.vacc with f := f } }) ∧
    (∀ v, ∀ i ∈ [Instr.adRgbaq v, .reglistRgbaq v], exec i s = .next { s with
      vacc := { s.vacc with r := bits v 0 8, g := bits v 8 8, b := bits v 16 8, a := bits v 24 8, q := bits v 32 32 } }) ∧
    (∀ v, ∀ i ∈ [Instr.adSt v, .reglistSt v], exec i s = .next { s with
      vacc := { s.vacc with s := bits v 0 32, t := bits v 32 32 } }) ∧
    (∀ v, ∀ i ∈ [Instr.adFog v, .reglistFog v], exec i s = .next { s with vacc := { s.vacc with f := bits v 56 8 } }) ∧
    (∀ v, ∀ i ∈ [Instr.adUv v, .reglistUv v, .packedUv (bits v 0 14) (bits v 16 14)],
      (s.cfg.altUvRounding = false → exec i s = .next { s with
        vacc := { s.vacc with u := bits v 0 14, v := bits v 16 14 } }) ∧
      (s.cfg.altUvRounding = true → exec i s = .next { s with vacc := { s.vacc with
        u := (Config.uvRound (bits v 0 14) (bits v 16 14)).1, v := (Config.uvRound (bits v 0 14) (bits v 16 14)).2 } }))

/-! ## Units without effect -/

/-- 40_gif_decoder R195, R197; 41_register_dispatch R259, R281, R282, R283, R284: these units change nothing. -/
def Obligations.NoEffectUnits : Prop :=
  ∀ (v : Word64) (s : State),
    exec .packedNop s = .next s ∧ exec (.reglistAd v) s = .next s ∧ exec (.reglistNop v) s = .next s ∧
    exec (.reglistUnassigned0B v) s = .next s ∧ exec (.adTexflush v) s = .next s ∧ exec (.adSignal v) s = .next s ∧
    exec (.adFinish v) s = .next s ∧ exec (.adLabel v) s = .next s ∧
    (∀ addr : BitVec 7, unassignedAddr addr = true → exec (.packedAd addr v) s = .next s)

/-- 40_gif_decoder R191: the reserved PACKED descriptor has no effect under the default policy and refuses under the other; the slot is
consumed either way. -/
def Obligations.ReservedDescriptorPolicy : Prop :=
  Config.defaults.reservedDesc = .nop ∧
  ∀ s : State,
    (s.cfg.reservedDesc = .nop → exec .packedReservedB s = .next s) ∧
    (s.cfg.reservedDesc = .refuse → ∃ t, exec .packedReservedB s = .next t ∧ t.refused = some .reservedDescriptor ∧
      t = { s with refused := t.refused, feed := ⟨s.feed.path, [], false⟩ }) ∧
    (∀ (q : Qword) (rest : List Qword), AtUnit s q rest → unitCtx s = .packed 0xB →
      ∃ u, step s = .next u ∧ u.path s.feed.path = steppedPath s.cur ∧
        u.refused = (if s.cfg.reservedDesc = .refuse then some .reservedDescriptor else none))

/-! ## Register writes -/

/-- 41_register_dispatch R222 (10_state R36): a write to a context register stores its defined fields, reserved bits 0, by every route;
a change of the active context's register with a group pending flushes first. -/
def Obligations.ContextRegisterWrite : Prop :=
  ∀ (r : CtxReg) (c : CtxId) (v : Word64) (s : State), ∀ i ∈ ctxRows r c v,
    ∃ w, storesFields r.fieldTable v w ∧
      exec i s = .next (setCtxReg r c w (if w ≠ (s.ctx c).get r ∧ s.pending = true ∧ c = s.actx then flush s else s))

/-- 41_register_dispatch R222 (10_state R36): the same for the environment registers, which affect both contexts. -/
def Obligations.EnvironmentRegisterWrite : Prop :=
  ∀ (r : EnvReg) (v : Word64) (s : State), ∀ i ∈ envRows r v,
    ∃ w, storesFields r.fieldTable v w ∧
      exec i s = .next (setEnv r w (if w ≠ s.env.get r ∧ s.pending = true then flush s else s))

/-- 41_register_dispatch R245, R246: TEX2 replaces the CLUT fields of TEX0 of its context, with the flush rule on the merged value. -/
def Obligations.Tex2MergesIntoTex0 : Prop :=
  ∀ (c : CtxId) (v : Word64) (s : State),
    ∃ w, mergesFields tex2Fields (s.ctx c).tex0 v w ∧
      exec (tex2Row c v) s =
        .next (setCtxReg .tex0 c w (if w ≠ (s.ctx c).tex0 ∧ s.pending = true ∧ c = s.actx then flush s else s))

/-- 41_register_dispatch R250: PRMODE flushes only while it is in effect. -/
def Obligations.PrmodeWrite : Prop :=
  ∀ (v : Word64) (s : State),
    ∃ w, storesFields EnvReg.prmode.fieldTable v w ∧
      exec (.adPrmode v) s =
        .next (setEnv .prmode w (if w ≠ s.env.prmode ∧ s.pending = true ∧ bit s.env.prmodecont 0 = false then flush s else s))

/-- 41_register_dispatch R230: a PRIM write, by every route: the flush check, the store of all 11 bits, and the restart of vertex
assembly. -/
def Obligations.PrimWrite : Prop :=
  ∀ (v : Word64) (s : State), ∀ i ∈ primRows v,
    let flushes := (topologyOf s.cfg.prim7 (bits v 0 3)).cls ≠ s.topology.cls ∨
      (bit s.env.prmodecont 0 = true ∧ bits v 3 8 ≠ bits s.env.prim 3 8)
    ∃ s1, (flushes → s1 = flush s) ∧ (¬ flushes → s1 = s) ∧
      exec i s = .next { s1 with
        env := { s1.env with prim := (bits v 0 11).setWidth 64 }
        vq := if s1.vq.ibuf = [] then ⟨[], 0, 0, []⟩ else ⟨s1.vq.vbuf.take s1.vq.next, s1.vq.next, s1.vq.next, s1.vq.ibuf⟩ }

/-- 41_register_dispatch R220, R226: the same address behaves the same whichever way it arrives: A+D, REGLIST, or PACKED descriptors
0x6 to 0x9. -/
def Obligations.RoutesAgree : Prop :=
  ∀ (v : Word64) (q : Qword) (s : State) (d : BitVec 4),
    (d.toNat ≤ 0xD → exec (decode (reglistUnit d v)) s = exec (decode (adUnit (d.setWidth 7) v)) s) ∧
    (6 ≤ d.toNat → d.toNat ≤ 9 → exec (decode ⟨.packed d, q⟩) s = exec (decode (adUnit (d.setWidth 7) (bits q 0 64))) s)

/-- 41_register_dispatch R222, 20_memory R91: the frame of the context and environment writes. Every other register and everything that
is no register and no pending drawing is unchanged; with nothing pending, the queue, the events and every byte of memory are too. -/
def Obligations.RegisterWriteFrame : Prop :=
  (∀ (r : CtxReg) (c : CtxId) (v : Word64) (s t : State), ∀ i ∈ tex2Row c v :: ctxRows r c v,
    exec i s = .next t →
      SameElsewhere s t ∧ t.env = s.env ∧
      (∀ d x, (d ≠ c ∨ (x ≠ r ∧ x ≠ .tex0)) → (t.ctx d).get x = (s.ctx d).get x) ∧
      (i ∈ ctxRows r c v → ∀ x, x ≠ r → (t.ctx c).get x = (s.ctx c).get x) ∧
      (s.pending = false ∨ c ≠ s.actx → SameDrawing s t)) ∧
  (∀ (r : EnvReg) (v : Word64) (s t : State), ∀ i ∈ envRows r v,
    exec i s = .next t →
      SameElsewhere s t ∧ (∀ c, t.ctx c = s.ctx c) ∧ (∀ x, x ≠ r → t.env.get x = s.env.get x) ∧
      (s.pending = false → SameDrawing s t)) ∧
  (∀ (v : Word64) (s t : State), exec (.adPrmode v) s = .next t →
      SameElsewhere s t ∧ (∀ c, t.ctx c = s.ctx c) ∧ (∀ x, x ≠ .prmode → t.env.get x = s.env.get x) ∧
      (s.pending = false → SameDrawing s t)) ∧
  (∀ (v : Word64) (s t : State), ∀ i ∈ primRows v, exec i s = .next t →
      SameElsewhere s t ∧ (∀ c, t.ctx c = s.ctx c) ∧ (∀ x, x ≠ .prim → t.env.get x = s.env.get x) ∧
      (s.pending = false → t.out = s.out ∧ ∀ a, t.mem.load a = s.mem.load a))

/-- 41_register_dispatch R222, R285: a rewrite with the stored value changes nothing at all; a write that changes an in-effect
register with a group pending forces exactly one flush before the new value applies: one Draw with the old registers and every pending
index, then an error event if the renderer's verdict is not ok; nothing stays pending. -/
def Obligations.FlushExactlyOnEffectiveChange : Prop :=
  (∀ (r : CtxReg) (c : CtxId) (v : Word64) (s : State), ∀ i ∈ ctxRows r c v,
    storesFields r.fieldTable v ((s.ctx c).get r) → exec i s = .next s) ∧
  (∀ (r : EnvReg) (v : Word64) (s : State), ∀ i ∈ envRows r v, storesFields r.fieldTable v (s.env.get r) → exec i s = .next s) ∧
  (∀ (s : State), s.pending = true →
    (∀ (r : CtxReg) (v : Word64), ∀ i ∈ ctxRows r s.actx v, ¬ storesFields r.fieldTable v ((s.ctx s.actx).get r) →
      ∃ t, exec i s = .next t ∧ t.out = s.out ++ pendingDraw s :: failureEvents (rendererVerdict s) ∧ t.vq.ibuf = []) ∧
    (∀ (r : EnvReg) (v : Word64), ∀ i ∈ envRows r v, ¬ storesFields r.fieldTable v (s.env.get r) →
      ∃ t, exec i s = .next t ∧ t.out = s.out ++ pendingDraw s :: failureEvents (rendererVerdict s) ∧ t.vq.ibuf = []))

/-- 41_register_dispatch R286: no instruction lets a pending group meet other registers than those in effect when its primitives were
accepted: if an instruction changes what is in effect while a group is pending, the group's Draw, with the old registers, comes first. -/
def Obligations.PendingGroupDrawnUnderItsRegisters : Prop :=
  ∀ (i : Instr) (s t : State), s.pending = true → exec i s = .next t →
    inEffect t = inEffect s ∨ ∃ es, t.out = s.out ++ pendingDraw s :: es

/-! ## The kick -/

/-- 42_vertex_kick R302, R303, R304: a kick that does not complete a primitive stores the vertex with the sticky attributes and its
window entry, and nothing else. -/
def Obligations.KickStoresVertex : Prop :=
  ∀ (i : Instr) (k : KickArgs) (s : State), KickRuns i k s → k.live s < s.topology.verts → exec i s = .next (k.appended s)

/-- 10_state R45, 42_vertex_kick R305: the window holds the last four entries, the newest first; and every step keeps its entries pairs
of signed 18-bit integers. -/
def Obligations.WindowHoldsLastFour : Prop :=
  (∀ (w : Window) (e : XY),
    (w.push e).back 1 = e ∧ (w.push e).back 2 = w.back 1 ∧ (w.push e).back 3 = w.back 2 ∧ (w.push e).back 4 = w.back 3 ∧
    (w.push e).count = w.count + 1 ∧ (w.push e).get w.count = e) ∧
  ∀ s t : State, s.win.Ok → step s = .next t → t.win.Ok

/-- 42_vertex_kick R309: a kick that completes a primitive and passes the test emits the topology's indices and moves the cursors. -/
def Obligations.KickEmitsPrimitive : Prop :=
  ∀ (i : Instr) (k : KickArgs) (s : State), KickRuns i k s → KickAccepts k s → (s.cfg.autoFlush && hazard s) = false →
    ∃ q, exec i s = .next { k.appended s with vq := q } ∧
      acceptedQueue s.topology (k.verts s) s.vq.head s.vq.next s.vq.ibuf q

/-- 42_vertex_kick R303, R308: a complete primitive that is skipped or trivially rejected emits no index, and the queue keeps what its
topology keeps. -/
def Obligations.KickRejectsPrimitive : Prop :=
  ∀ (i : Instr) (k : KickArgs) (s : State), KickRuns i k s → s.topology.verts ≤ k.live s →
    (k.skip = true ∨ reject (k.appended s) s.topology (k.live s) = true) →
    exec i s = .next { k.appended s with vq := rejectedQueue s.topology (k.verts s) s.vq.head s.vq.next s.vq.ibuf }

/-- 42_vertex_kick R305, R306, R307: trivial rejection, for the default degenerate test: the bounding box of the points does not meet
the inclusive scissor box, or the box is empty, or a triangle or sprite has two equal points; a fan of more than four vertices is not
tested. By default the box is R306's formula of SCISSOR (`boxOf`); for another parameter it is the parameter's. -/
def Obligations.TrivialRejection : Prop :=
  Config.defaults.degenerate = .pairEqual ∧ Config.defaults.scissorBox = .standard ∧
  ∀ (s : State), s.cfg.degenerate = .pairEqual → ∀ m : Nat,
    let x0 := (boxOf s).x0; let x1 := (boxOf s).x1
    let y0 := (boxOf s).y0; let y1 := (boxOf s).y1
    let a := s.win.back 1; let b := s.win.back 2; let d := s.win.back 3; let h := s.win.back m
    let out1 := fun (p : XY) => x1 < x0 ∨ y1 < y0 ∨ p.sx < x0 ∨ x1 < p.sx ∨ p.sy < y0 ∨ y1 < p.sy
    let out2 := fun (p q : XY) => x1 < x0 ∨ y1 < y0 ∨ max p.sx q.sx < x0 ∨ x1 < min p.sx q.sx ∨ max p.sy q.sy < y0 ∨ y1 < min p.sy q.sy
    let out3 := fun (p q r : XY) => x1 < x0 ∨ y1 < y0 ∨ max (max p.sx q.sx) r.sx < x0 ∨ x1 < min (min p.sx q.sx) r.sx ∨
      max (max p.sy q.sy) r.sy < y0 ∨ y1 < min (min p.sy q.sy) r.sy
    (reject s .pointList m = true ↔ out1 a) ∧
    (∀ t ∈ [Topology.lineList, .lineStrip], (reject s t m = true ↔ out2 b a)) ∧
    (reject s .sprite m = true ↔ out2 b a ∨ b = a) ∧
    (∀ t ∈ [Topology.triangleList, .triangleStrip], (reject s t m = true ↔ out3 d b a ∨ d = b ∨ d = a ∨ b = a)) ∧
    (m ≤ 4 → (reject s .triangleFan m = true ↔ out3 h b a ∨ h = b ∨ h = a ∨ b = a)) ∧
    (4 < m → reject s .triangleFan m = false)

/-- 42_vertex_kick R310 (60_exceptions R401, R416): a kick without room for its vertex, or for its indices, raises the fatal fault.
F stays written; at the index limit the vertex and its window entry stay too; nothing else changes, and the feed call ends. By default
both capacities are unbounded. -/
def Obligations.BufferExhaustedIsFatal : Prop :=
  Config.defaults.vbufMax = none ∧ Config.defaults.ibufMax = none ∧
  ∀ (i : Instr) (k : KickArgs) (s : State), kickOf i = some k → s.cfg.kickEnabled = true →
    (¬ fits s.cfg.vbufMax (s.vq.vbuf.length + 1) →
      exec i s = .next { s with vacc := k.acc s.vacc, fault := some .bufferExhausted, feed := ⟨s.feed.path, [], false⟩ }) ∧
    (fits s.cfg.vbufMax (s.vq.vbuf.length + 1) → s.topology.verts ≤ k.live s → k.skip = false →
      reject (k.appended s) s.topology (k.live s) = false → ¬ fits s.cfg.ibufMax (s.vq.ibuf.length + s.topology.verts) →
      exec i s = .next { k.appended s with fault := some .bufferExhausted, feed := ⟨s.feed.path, [], false⟩ })

/-- 42_vertex_kick R311: with auto-flush on and the hazard condition true, an accepted primitive is drawn at once. By default the
condition is R311's formula (`meetsHazard`); for another parameter it is the parameter's. -/
def Obligations.HazardFlushesPrimitive : Prop :=
  Config.defaults.hazard = .standard ∧
  ∀ (i : Instr) (k : KickArgs) (s : State), KickRuns i k s → KickAccepts k s → s.cfg.autoFlush = true → meetsHazard s →
    ∃ q, acceptedQueue s.topology (k.verts s) s.vq.head s.vq.next s.vq.ibuf q ∧
      exec i s = .next (flush { k.appended s with vq := q }) ∧
      (flush { k.appended s with vq := q }).out = s.out ++ pendingDraw { s with vq := q } :: failureEvents (rendererVerdict s)

/-- 42_vertex_kick R314: a position write never changes a register, the internal Q, a path or the engine; of the accumulator at most F;
without a hazard flush, no event and no byte of memory. -/
def Obligations.KickFrame : Prop :=
  ∀ (i : Instr) (k : KickArgs) (s t : State), kickOf i = some k → exec i s = .next t →
    SameRegisters s t ∧ t.qint = s.qint ∧ t.xfer = s.xfer ∧ (∀ p, t.path p = s.path p) ∧ t.cfg = s.cfg ∧ t.calls = s.calls ∧
    t.blobs = s.blobs ∧ t.refused = s.refused ∧ { t.vacc with f := s.vacc.f } = s.vacc ∧ (k.f = none → t.vacc = s.vacc) ∧
    ((s.cfg.autoFlush && hazard s) = false → t.out = s.out ∧ ∀ a, t.mem.load a = s.mem.load a)

/-- 41_register_dispatch R227: with kicks disabled a position write, in every form, has no effect at all. -/
def Obligations.DisabledKickHasNoEffect : Prop :=
  ∀ (i : Instr) (k : KickArgs) (s : State), kickOf i = some k → s.cfg.kickEnabled = false → exec i s = .next s

/-- 42_vertex_kick R300: under the discard policy, type 7 drops every vertex at once and emits no index, in a state whose queue is as
it is between kicks. -/
def Obligations.DiscardedTypeDropsVertex : Prop :=
  ∀ (i : Instr) (k : KickArgs) (s : State), KickRuns i k s → s.cfg.prim7 = .discard → bits s.env.prim 0 3 = 7#3 →
    s.QueueOk → s.fault = none → ∃ t, exec i s = .next t ∧ t.vq = s.vq ∧ t.out = s.out

/-! ## Flush -/

/-- 43_flush_draw R340, R342, R343, R345, R352, R354: a flush with a group pending emits one Draw with the snapshot, every buffered
vertex and every index, and an error event if the renderer's verdict is not ok; local memory becomes what the renderer makes it; the
queue is reset; the counter of free values advances (log 16); and nothing else changes. The renderer's answer, if one is queued, gives
the verdict and the bytes stored; with none queued the verdict and all of memory are free values (log 6). -/
def Obligations.FlushDrawsPendingGroup : Prop :=
  ∀ s : State, s.pending = true →
    flush s = { s with
      out := s.out ++ pendingDraw s :: failureEvents (rendererVerdict s)
      mem := rendererMem s
      replies := s.replies.tail
      freeCount := s.freeCount + 1
      vq := (flush s).vq } ∧ (flush s).vq.ibuf = [] ∧ (flush s).vq.head = 0 ∧
    (∀ r rest, s.replies = r :: rest → rendererVerdict s = r.ok ∧ rendererMem s = r.writes.foldl (fun m w => m.store w.1 w.2) s.mem) ∧
    (s.replies = [] → rendererVerdict s = Config.rendererOk s.freeCount ∧
      ∀ a, (rendererMem s).load a = Config.freeMem s.freeCount (a % Config.localMemBytes))

/-- 43_flush_draw R344: what a flush carries forward: the fan's anchor and newest vertex, or the live window. -/
def Obligations.FlushCarriesContinuation : Prop :=
  ∀ s : State, s.pending = true →
    let q := s.vq
    let c := (flush s).vq
    c.head = 0 ∧ c.ibuf = [] ∧ c.next = min (q.next - q.head) c.vbuf.length ∧
    (q.vbuf.length ≤ q.head → c.vbuf = []) ∧
    (∀ v rest, q.vbuf.drop q.head = v :: rest →
      (s.topology ≠ .triangleFan → c.vbuf = v :: rest) ∧
      (s.topology = .triangleFan → rest = [] → c.vbuf = [v]) ∧
      (∀ w, s.topology = .triangleFan → rest.getLast? = some w → c.vbuf = [v, w]))

/-- 43_flush_draw R340, 70_reset_and_hazards R452: FlushRequest is one flush; a flush with nothing pending changes nothing, so two
flushes in a row emit one Draw. -/
def Obligations.FlushRequestDrawsOnce : Prop :=
  (∀ (s : State) (rest : List HostCall), AtCall s .flushRequest rest → step s = .next (flush { s with calls := rest })) ∧
  (∀ s : State, s.vq.ibuf = [] → flush s = s) ∧ (∀ s : State, flush (flush s) = flush s)

/-! ## Transfers -/

/-- 44_transfer R362, R365 (41_register_dispatch R279): a TRXDIR write flushes, stores XDIR, latches the transfer registers and arms a
Write or a Read, runs the Move (MoveCopiesRectangle says what it copies), or leaves the engine idle; a Read announces its source
rectangle. -/
def Obligations.TrxdirStartsTransfer : Prop :=
  ∀ (v : Word64) (s : State),
    let f := flush s
    let stored := { f with env := { f.env with trxdir := v &&& 3#64 } }
    let wr := armedXfer s .write (trbpp (dpsm s.env.bitbltbuf))
    let rd := armedXfer s .read (trbpp (spsm s.env.bitbltbuf))
    (bits v 0 2 = 0#2 → exec (.adTrxdir v) s = .next { stored with xfer := wr }) ∧
    (bits v 0 2 = 1#2 → exec (.adTrxdir v) s = .next { stored with xfer := rd, out := f.out ++ [sourceHook rd] }) ∧
    (bits v 0 2 = 2#2 → exec (.adTrxdir v) s = .next (move { stored with xfer := idleXfer s })) ∧
    (bits v 0 2 = 3#2 → exec (.adTrxdir v) s = .next { stored with xfer := idleXfer s })

/-- 44_transfer R374, R376: XDIR = 2 copies the rectangle at once, pixel by pixel in the DIR order, between its two hooks; the engine
is idle after it. By default a value is kept, or truncated or zero-extended between widths (`converted`); another parameter converts as
log 17 says. -/
def Obligations.MoveCopiesRectangle : Prop :=
  Config.defaults.moveConvert = .standard ∧ ∀ (v : Word64) (s : State), bits v 0 2 = 2#2 →
    let f := flush s
    let x := idleXfer s
    exec (.adTrxdir v) s = .next { f with
      env := { f.env with trxdir := v &&& 3#64 }
      xfer := x
      mem := copyRows s.cfg.moveConvert s.env.bitbltbuf s.env.trxpos x.w x.h f.mem
      out := f.out ++ [sourceHook x, destHook x] }

/-- 44_transfer R374: a Move whose source equals its destination changes no byte, whatever the DIR bits. -/
def Obligations.MoveOntoItself : Prop :=
  ∀ (v : Word64) (s : State), bits v 0 2 = 2#2 → s.pending = false →
    let b := s.env.bitbltbuf
    let p := s.env.trxpos
    sbp b = dbp b → sbw b = dbw b → spsm b = dpsm b → ssax p = dsax p → ssay p = dsay p →
    ∃ t, exec (.adTrxdir v) s = .next t ∧ ∀ a, t.mem.load a = s.mem.load a

/-- 44_transfer R363, R364, R366, R367, R369, R372, R373, R381 (20_memory R82, 41_register_dispatch R280): HWREG and IMAGE data of a
Write, in any format, wherever in a pixel they begin. The bits that wait and those of the bytes taken, low bits first, make pixels,
written from the cursor on after the pending group is drawn; bits past the rectangle are padding and bytes past `total` are dropped.
`afterData` says the whole state after it: memory, cursor, byte count, waiting bits, mode, events; nothing else changes but, for IMAGE
data, the path's loop count. What a pixel access is, 20_memory R86 to R89 say: `PixelPlaces`, the place of a pixel, and `PixelAccess`,
the bits a read gives and a write replaces. The fields of the latched registers are where 10_state R64 and R65 put them
(`TransferFields`). -/
def Obligations.DataWritesPixels : Prop :=
  TransferFields ∧ PixelPlaces ∧ PixelAccess ∧
  (∀ (v : Word64) (s : State), WriteArmed s.xfer → exec (.adHwreg v) s = .next (afterData 8 v.toNat s)) ∧
  (∀ (q : Qword) (s : State), WriteArmed s.xfer → ∀ i ∈ [Instr.giftagImage (.data q), .giftagImage2 (.data q)],
    exec i s = .next ((afterData 16 q.toNat s).setPath s.feed.path { s.cur with nloop := s.cur.nloop - 1 }))

/-- 44_transfer R382, R366: the frame of transfer data. It changes no register, accumulator, window or other path; with nothing
pending, every byte of memory outside the words of the pixels it can complete keeps its value. -/
def Obligations.DataFrame : Prop :=
  ∀ (s t : State) (n : Nat) (i : Instr),
    ((∃ v, i = .adHwreg v) ∧ n = 8) ∨ ((∃ q, i = .giftagImage (.data q) ∨ i = .giftagImage2 (.data q)) ∧ n = 16) →
    s.xfer.Ok → exec i s = .next t →
    SameRegisters s t ∧ t.vacc = s.vacc ∧ t.qint = s.qint ∧ t.win = s.win ∧ (∀ p, p ≠ s.feed.path → t.path p = s.path p) ∧
    t.cfg = s.cfg ∧ t.fault = s.fault ∧ t.refused = s.refused ∧ t.calls = s.calls ∧ t.feed = s.feed ∧ t.blobs = s.blobs ∧
    (s.pending = false → t.vq = s.vq ∧
      ∀ a, (∀ k, cursorPixel s.xfer ≤ k → k < cursorPixel s.xfer + (s.xfer.pcount + 8 * n) / s.xfer.bpp → k < s.xfer.w * s.xfer.h →
        ¬ pixelCovers (destPixel s.xfer k) a) → t.mem.load a = s.mem.load a)

/-- 44_transfer R372: data that no Write can take is dropped; the first drop since the last TRXDIR write is logged, later ones are
not. -/
def Obligations.UnusableDataDropped : Prop :=
  ∀ (s : State), s.xfer.mode ≠ .write ∨ s.xfer.total ≤ s.xfer.done →
    let dropped := if s.xfer.overflow then s
      else { s with xfer := { s.xfer with overflow := true }, out := s.out ++ [.log .transferOverflow] }
    (∀ v, exec (.adHwreg v) s = .next dropped) ∧
    (∀ q, ∀ i ∈ [Instr.giftagImage (.data q), .giftagImage2 (.data q)],
      exec i s = .next (dropped.setPath s.feed.path { s.cur with nloop := s.cur.nloop - 1 }))

/-- 44_transfer R373: an IMAGE qword and the two HWREG writes of its halves leave the same memory, engine and queue; only the number of
destination hooks can differ. -/
def Obligations.SplitDataSameResult : Prop :=
  ∀ (q : Qword) (s a b c : State),
    exec (.giftagImage (.data q)) s = .next a → exec (.adHwreg (bits q 0 64)) s = .next b →
    exec (.adHwreg (bits q 64 64)) b = .next c →
    a.mem = c.mem ∧ a.xfer = c.xfer ∧ a.vq = c.vq ∧
      a.out.filter (fun e => e ≠ destHook s.xfer) = c.out.filter (fun e => e ≠ destHook s.xfer)

/-- 44_transfer R364, R368, R369, R377, R378 (20_memory R82): a ReadFIFO of a Read, in any format, wherever in a pixel it stands. It
flushes before the first pixel it fetches, and returns the bits that wait and those of the pixels from the cursor on, low bits first,
with zeros past the rectangle; bytes past `total` are free values. The cursor, the byte count, the waiting bits and the mode are as
`xferAfterRead` says; the counter of free values advances (log 16), and nothing else changes. -/
def Obligations.ReadFifoDeliversPixels : Prop :=
  ∀ (s : State) (n : Nat) (rest : List HostCall), AtCall s (.readFIFO n) rest → ReadArmed s.xfer →
    let f := if 0 < fetched s.xfer (16 * n) then flush s else s
    let surplus := 16 * n - givenBytes s.xfer (16 * n)
    ∃ free : List Byte, free.length = surplus ∧
      step s = .next { f with
        calls := rest
        xfer := xferAfterRead s.xfer (16 * n) f.mem
        freeCount := f.freeCount + surplus
        out := f.out ++ [.readData (givenData s.xfer (16 * n) f.mem ++ free)] }

/-- 44_transfer R378: a ReadFIFO with no Read to serve still returns its 16 n bytes, and changes nothing but the event. The bytes are
free values. -/
def Obligations.SurplusReadFifoOnlyReports : Prop :=
  ∀ (s : State) (n : Nat) (rest : List HostCall), AtCall s (.readFIFO n) rest → s.xfer.mode ≠ .read ∨ s.xfer.total ≤ s.xfer.done →
    ∃ bs : List Byte, bs.length = 16 * n ∧
      step s = .next { s with calls := rest, out := s.out ++ [.readData bs], freeCount := s.freeCount + 16 * n }

/-! ## Host calls -/

/-- 40_gif_decoder R170, R179, 60_exceptions R405: the start of a feed call: a partial qword is refused first, then a feed while
another path is mid-tag; a refusal changes nothing but the refusal and the feed call; an accepted call waits with its qwords in
order. -/
def Obligations.TransferChecks : Prop :=
  ∀ (s : State) (p : PathId) (bytes : List Byte) (n : Nat) (rest : List HostCall), AtCall s (.transfer p bytes n) rest →
    let busy := ∃ x, x ≠ p ∧ (s.path x).nloop ≠ 0#15
    let refusedFor := fun (r : Refusal) => { s with calls := rest, refused := some r, feed := ⟨s.feed.path, [], false⟩ }
    (bytes.length ≠ 16 * n → step s = .next (refusedFor .partialQword)) ∧
    (bytes.length = 16 * n → busy → step s = .next (refusedFor .pathInterleavedMidTag)) ∧
    (bytes.length = 16 * n → ¬ busy → ∃ qs : List Qword, qs.length = n ∧
      (∀ j < n, ∀ i < 128, ((qs.getD j 0).getLsbD i) = ((bytes.getD (16 * j + i / 8) 0).getLsbD (i % 8))) ∧
      step s = .next { s with calls := rest, feed := ⟨p, qs, false⟩ })

/-- 70_reset_and_hazards R430, 10_state R53: PowerOn puts every component of the block at its power-on value, from any state, stuck or
not. -/
def Obligations.PowerOnResetsBlock : Prop :=
  ∀ (s : State) (rest : List HostCall), s.calls = .powerOn :: rest → (s.stuck = true ∨ s.feed.qwords = []) →
    ∃ t, step s = .next t ∧ (∀ p, t.path p = ⟨0, 0, 0⟩) ∧ (∀ r, t.env.get r = 0) ∧ (∀ c r, (t.ctx c).get r = 0) ∧
      t.vacc = ⟨0, 0, 0, 0, 0, 0, 0, 0, 0, 0⟩ ∧ t.qint = 0x3F800000#32 ∧ t.vq = ⟨[], 0, 0, []⟩ ∧
      t.win = ⟨⟨0, 0⟩, ⟨0, 0⟩, ⟨0, 0⟩, ⟨0, 0⟩, 0⟩ ∧
      t.xfer = ⟨.idle, 0, 0, 0, 0, 0, 0, 0, 0, 0, 0, 0, false⟩ ∧ t.fault = none ∧ t.refused = none ∧ t.out = []

/-- 40_gif_decoder R199, R200: SoftReset returns the selected paths to their power-on state and changes nothing else; doing it twice
is doing it once. -/
def Obligations.SoftResetClearsPaths : Prop :=
  ∀ (s : State) (mask : BitVec 4) (rest : List HostCall), AtCall s (.softReset mask) rest →
    ∃ t, step s = .next t ∧
      (∀ p : PathId, t.path p = if p.inMask mask then ⟨0, 0, 0⟩ else s.path p) ∧
      t = { s with calls := rest, path0 := t.path0, path1 := t.path1, path2 := t.path2, path3 := t.path3 } ∧
      softReset mask t = t

/-- 70_reset_and_hazards R433, 60_exceptions R400: Freeze changes no state of the block and returns a version tag with the parts of the
state behind it, in the order of R433. Defrost of the bytes it returned brings back the parser, register, vertex and transfer state it
saved, into any state with the same limits, and leaves memory, fault, refusal and events alone; a block in a safe state is one it can
save. Defrost of any bytes restores what the format decodes from them, which is always in range (10_state R36, R43, R45, R47); bytes
it cannot decode are refused with BadSnapshot, and nothing else changes. The format, and that bytes of an image out of range are
undecodable, are the model's reading (log 10). -/
def Obligations.FreezeDefrostRoundTrip : Prop :=
  (∀ (s : State) (rest : List HostCall), AtCall s .freeze rest →
    step s = .next { s with calls := rest, blobs := s.blobs ++ [frozen (imageOf s)] } ∧
      ∀ (u : State) (more : List HostCall), AtCall u (.defrost (frozen (imageOf s))) more → (imageOf s).Ok u.cfg →
        ∃ w, step u = .next w ∧ (∀ p, w.path p = s.path p) ∧ w.env = s.env ∧ (∀ c, w.ctx c = s.ctx c) ∧ w.vacc = s.vacc ∧
          w.qint = s.qint ∧ w.vq = s.vq ∧ w.win = s.win ∧ w.xfer = s.xfer ∧ w.mem = u.mem ∧ w.fault = u.fault ∧
          w.refused = u.refused ∧ w.out = u.out) ∧
  (∀ s : State, s.Safe → (imageOf s).Ok s.cfg) ∧
  (∃ (version : Blob) (paths : List PathState → Blob) (registers : Env → Ctx → Ctx → Blob) (contexts : Ctx → Ctx → Blob)
      (env : Env → Blob) (vertex : VAcc → BitVec 32 → Blob) (pending : VertexQueue → Window → Blob) (transfer : Xfer → Blob),
    ∀ s : State, frozen (imageOf s) = version ++ paths [s.path0, s.path1, s.path2, s.path3] ++ registers s.env s.ctx0 s.ctx1 ++
      contexts s.ctx0 s.ctx1 ++ env s.env ++ vertex s.vacc s.qint ++ pending s.vq s.win ++ transfer s.xfer) ∧
  (∀ (u : State) (blob : Blob) (more : List HostCall), AtCall u (.defrost blob) more →
    step u = .next (match thawed u.cfg blob with
      | some b => { u with
          calls := more, path0 := b.path0, path1 := b.path1, path2 := b.path2, path3 := b.path3, env := b.env, ctx0 := b.ctx0,
          ctx1 := b.ctx1, vacc := b.vacc, qint := b.qint, vq := b.vq, win := b.win, xfer := b.xfer }
      | none => { u with calls := more, refused := some .badSnapshot, feed := ⟨u.feed.path, [], false⟩ }) ∧
    ∀ b, thawed u.cfg blob = some b → b.Ok u.cfg)

/-- 70_reset_and_hazards R432: Reconfigure sets the three configuration inputs at once and nothing else. -/
def Obligations.ReconfigureSetsInputs : Prop :=
  ∀ (s : State) (a u k : Bool) (rest : List HostCall), AtCall s (.reconfigure a u k) rest →
    step s = .next { s with calls := rest, cfg := { s.cfg with autoFlush := a, altUvRounding := u, kickEnabled := k } }

/-! ## Rules of the whole machine -/

/-- 10_state R36: reserved bits of stored and latched registers are 0 after every step, if they were before: after a Defrost of any bytes
too. -/
def Obligations.StepKeepsReservedBitsClear : Prop :=
  ∀ s t : State, s.ReservedClear → step s = .next t → t.ReservedClear

/-- 42_vertex_kick R310, R313, 43_flush_draw R355, 10_state R43, R44: every step keeps the vertex queue's invariant, and the queue within
its capacities. What it says of an image that a Defrost restores is the model's reading (log 10, log 22). -/
def Obligations.StepKeepsQueueInOrder : Prop :=
  ∀ s t : State, s.QueueOk → step s = .next t → t.QueueOk

/-- 10_state R47: every step keeps the engine's fields in their ranges, after a Defrost of any bytes too. That a Defrost takes no image
that breaks a relation R47 does not state of every state (the bits per pixel of the format, `total` at most the rectangle's bytes, fewer
pending bits than a pixel or at most 31) is the model's reading (log 10, log 22), and so is the rectangle of 0 by 0 of R53 against R47's
'each >= 1' (log 18). -/
def Obligations.StepKeepsEngineInRange : Prop :=
  ∀ s t : State, s.xfer.Ok → step s = .next t → t.xfer.Ok

/-- Log 5: every step keeps the canonical form of memory. -/
def Obligations.StepKeepsMemoryCanonical : Prop :=
  ∀ s t : State, s.mem.wf = true → step s = .next t → t.mem.wf = true

/-- 43_flush_draw R343, R355, 42_vertex_kick R313: whatever a step draws, the indices name vertices of the Draw and are whole primitives,
and the class is one that is drawn: a type 7 that is discarded gives no Draw. -/
def Obligations.DrawsNameTheirVertices : Prop :=
  ∀ s t : State, s.QueueOk → s.fault = none → step s = .next t →
    ∀ snap vs is cls, Event.draw snap vs is cls ∈ t.out → Event.draw snap vs is cls ∉ s.out →
      (∀ i ∈ is, i < vs.length) ∧ cls ≠ .invalid ∧
      is.length % (match cls with | .point => 1 | .line => 2 | .sprite => 2 | .triangle => 3 | .invalid => 1) = 0

/-- 10_state R52: a step never takes an event back, but for PowerOn. -/
def Obligations.EventsOnlyAppended : Prop :=
  ∀ s t : State, step s = .next t →
    (∃ es, t.out = s.out ++ es) ∨ (∃ rest, s.calls = .powerOn :: rest ∧ (s.stuck = true ∨ s.feed.qwords = []) ∧ t.out = [])

/-- 10_state R51, 60_exceptions R401, 70_reset_and_hazards R450: a block that stops drops the rest of its feed call; stopped, it takes
no step of any host call but PowerOn, which starts it again, and with no call left the step answers why it stopped. How the step
answers, and that the other calls are dropped, is the model's reading (log 4). -/
def Obligations.StopIsSticky : Prop :=
  (∀ s t : State, s.StuckIdle → step s = .next t → t.StuckIdle) ∧
  (∀ s : State, s.stuck = true →
    (∀ c rest, s.calls = c :: rest → c ≠ .powerOn → step s = .next { s with calls := rest }) ∧
    (∀ rest, s.calls = .powerOn :: rest → ∃ t, step s = .next t ∧ t.stuck = false) ∧
    (s.calls = [] → (∃ f, s.fault = some f ∧ step s = .fault f) ∨ (∃ r, s.fault = none ∧ s.refused = some r ∧ step s = .refused r)))

/-- 10_state R53, R54: the power-on state is safe, and the consequences the spec names: a point list, AC = 0, context 0, the scissor of
both contexts the single pixel (0, 0), no transfer armed. -/
def Obligations.ResetIsSafe : Prop :=
  State.reset.Safe ∧ State.reset.StuckIdle ∧ State.reset.topology = .pointList ∧ State.reset.ac = false ∧ State.reset.actx = .c0 ∧
    (∀ c, (State.reset.ctx c).scissor = 0) ∧ State.reset.xfer.mode = .idle ∧ State.reset.qint = 0x3F800000#32
end

