-- ==== Sys2Proof/Laws/Memory.lean ====
section
/-! SUPPORT. Laws of local memory: read after write, the canonical form, and the bytes a pixel access touches. -/

namespace Sys2Proof.Machine

/-! ## The cell list -/

theorem lookup_insert_same (l : List Host.Cell) (a : Nat) (b : Byte) : lookupCell (insertCell l a b) a = some b := by
  induction l with
  | nil => simp [insertCell, lookupCell]
  | cons c t ih =>
    obtain ⟨k, v⟩ := c
    unfold insertCell
    split
    · simp [lookupCell]
    · split
      · simp [lookupCell]
      · have : k ≠ a := by omega
        simp [lookupCell, this, ih]

theorem lookup_insert_ne (l : List Host.Cell) {a c : Nat} (b : Byte) (h : c ≠ a) :
    lookupCell (insertCell l a b) c = lookupCell l c := by
  induction l with
  | nil => simp [insertCell, lookupCell, h.symm]
  | cons d t ih =>
    obtain ⟨k, v⟩ := d
    unfold insertCell
    split
    · simp [lookupCell, h.symm]
    · split
      · subst_vars; simp [lookupCell, h.symm]
      · simp [lookupCell, ih]

theorem ascending_insert {lo a : Nat} {l : List Host.Cell} (b : Byte) (hl : ascending lo l = true) (ha : lo ≤ a)
    (hs : a < Config.localMemBytes) : ascending lo (insertCell l a b) = true := by
  induction l generalizing lo with
  | nil => simp [insertCell, ascending, ha, hs]
  | cons d t ih =>
    obtain ⟨k, v⟩ := d
    simp only [ascending, Bool.and_eq_true, decide_eq_true_eq] at hl
    unfold insertCell
    split
    · simp only [ascending, Bool.and_eq_true, decide_eq_true_eq]
      exact ⟨⟨ha, hs⟩, ⟨by omega, hl.1.2⟩, hl.2⟩
    · split
      · subst_vars; simp [ascending, ha, hs, hl.2]
      · simp only [ascending, Bool.and_eq_true, decide_eq_true_eq]
        exact ⟨hl.1, ih hl.2 (by omega)⟩

/-- A list in canonical form lists nothing below its bound. -/
theorem lookup_below {lo a : Nat} {l : List Host.Cell} (hl : ascending lo l = true) (ha : a < lo) : lookupCell l a = none := by
  induction l generalizing lo with
  | nil => rfl
  | cons d t ih =>
    obtain ⟨k, v⟩ := d
    simp only [ascending, Bool.and_eq_true, decide_eq_true_eq] at hl
    have : k ≠ a := by omega
    simp [lookupCell, this, ih hl.2 (by omega)]

/-- Equal memories are equal data: canonical lists with the same entries are the same list. -/
theorem ascending_ext {lo : Nat} {l m : List Host.Cell} (hl : ascending lo l = true) (hm : ascending lo m = true)
    (h : ∀ a, lookupCell l a = lookupCell m a) : l = m := by
  induction l generalizing lo m with
  | nil =>
    cases m with
    | nil => rfl
    | cons d t => have := h d.1; simp [lookupCell] at this
  | cons c t ih =>
    obtain ⟨k, v⟩ := c
    cases m with
    | nil => have := h k; simp [lookupCell] at this
    | cons d u =>
      obtain ⟨k', v'⟩ := d
      simp only [ascending, Bool.and_eq_true, decide_eq_true_eq] at hl hm
      have hk : k = k' := by
        rcases Nat.lt_trichotomy k k' with hlt | heq | hgt
        · have e := h k
          have n : lookupCell u k = none := lookup_below hm.2 (by omega)
          have : k' ≠ k := by omega
          simp [lookupCell, this, n] at e
        · exact heq
        · have e := h k'
          have n : lookupCell t k' = none := lookup_below hl.2 (by omega)
          have : k ≠ k' := by omega
          simp [lookupCell, this, n] at e
      subst hk
      have hv : v = v' := by have e := h k; simpa [lookupCell] using e
      subst hv
      refine congrArg _ (ih hl.2 hm.2 fun a => ?_)
      by_cases ha : a ≤ k
      · rw [lookup_below hl.2 (by omega), lookup_below hm.2 (by omega)]
      · have e := h a
        have : k ≠ a := by omega
        simpa [lookupCell, this] using e

/-! ## Bytes -/

theorem localMemBytes_pos : 0 < Config.localMemBytes := by decide

theorem load_store_same (m : Memory) {a c : Nat} (b : Byte) (h : c % Config.localMemBytes = a % Config.localMemBytes) :
    (m.store a b).load c = b := by
  simp [Memory.load, Memory.store, h, lookup_insert_same]

theorem load_store_ne (m : Memory) {a c : Nat} (b : Byte) (h : c % Config.localMemBytes ≠ a % Config.localMemBytes) :
    (m.store a b).load c = m.load c := by
  simp [Memory.load, Memory.store, lookup_insert_ne _ _ h]

@[simp] theorem load_mod (m : Memory) (a : Nat) : m.load (a % Config.localMemBytes) = m.load a := by
  simp [Memory.load]

/-- Storing what a byte reads as changes no read. -/
theorem load_store_self (m : Memory) (a c : Nat) : (m.store a (m.load a)).load c = m.load c := by
  by_cases h : c % Config.localMemBytes = a % Config.localMemBytes
  · rw [load_store_same m _ h]; simp [Memory.load, h]
  · exact load_store_ne m _ h

@[simp] theorem store_epoch (m : Memory) (a : Nat) (b : Byte) : (m.store a b).epoch = m.epoch := rfl

theorem wf_store {m : Memory} (h : m.wf = true) (a : Nat) (b : Byte) : (m.store a b).wf = true :=
  ascending_insert b h (Nat.zero_le _) (Nat.mod_lt _ localMemBytes_pos)

theorem wf_storeAll {m : Memory} (h : m.wf = true) (ws : List Host.Cell) : (m.storeAll ws).wf = true := by
  unfold Memory.storeAll
  induction ws generalizing m with
  | nil => exact h
  | cons w t ih => exact ih (wf_store h _ _)

@[simp] theorem wf_empty (e : Nat) : (Memory.mk [] e).wf = true := rfl

/-! ## Pixels -/

theorem wf_writeFieldByte {m : Memory} (h : m.wf = true) (loc : PixelLoc) (n : Nat) (v : BitVec 32) (k : Nat) :
    (writeFieldByte loc n v m k).wf = true := by
  unfold writeFieldByte
  split
  · exact h
  · split <;> exact wf_store h _ _

theorem wf_foldl {α : Type} (f : Memory → α → Memory) (hf : ∀ m x, m.wf = true → (f m x).wf = true) (l : List α) {m : Memory}
    (h : m.wf = true) : (l.foldl f m).wf = true := by
  induction l generalizing m with
  | nil => exact h
  | cons x t ih => exact ih (hf m x h)

theorem wf_writeField {m : Memory} (h : m.wf = true) (loc : PixelLoc) (n : Nat) (v : BitVec 32) : (writeField m loc n v).wf = true :=
  wf_foldl _ (fun _ k hm => wf_writeFieldByte hm loc n v k) _ h

theorem wf_writePixel {m : Memory} (h : m.wf = true) (psm : BitVec 6) (bp bw x y : Nat) (v : BitVec 32) :
    (writePixel m psm bp bw x y v).wf = true := wf_writeField h _ _ _

theorem wf_movedMem {m : Memory} (h : m.wf = true) (f : Formula) (x : Xfer) : (movedMem f x m).wf = true :=
  wf_foldl _ (fun _ _ hm => wf_writePixel hm _ _ _ _ _ _) _ h

/-- An invariant of reads that every element's update keeps. -/
theorem load_foldl {α : Type} (f : Memory → α → Memory) (a : Nat) (l : List α) (hf : ∀ m, ∀ x ∈ l, (f m x).load a = m.load a)
    (m : Memory) : (l.foldl f m).load a = m.load a := by
  induction l generalizing m with
  | nil => rfl
  | cons x t ih =>
    rw [List.foldl_cons, ih (fun m y hy => hf m y (List.mem_cons_of_mem _ hy)), hf m x (List.mem_cons_self ..)]

theorem load_writeFieldByte_ne (m : Memory) (loc : PixelLoc) (n : Nat) (v : BitVec 32) {a k : Nat}
    (h : a % Config.localMemBytes ≠ (loc.addr + k) % Config.localMemBytes) :
    (writeFieldByte loc n v m k).load a = m.load a := by
  unfold writeFieldByte
  split
  · rfl
  · split <;> exact load_store_ne m _ h

/-- A write of a field changes no byte outside its word. -/
theorem load_writeField_outside (m : Memory) (loc : PixelLoc) (n : Nat) (v : BitVec 32) {a : Nat} (h : ¬ pixelCovers loc a) :
    (writeField m loc n v).load a = m.load a :=
  load_foldl _ a _ (fun _ k hk => load_writeFieldByte_ne _ loc n v fun e => h ⟨k, List.mem_range.mp hk, e⟩) m

/-- A pixel write changes no byte outside the pixel's word. -/
theorem load_writePixel_outside (m : Memory) (psm : BitVec 6) (bp bw x y : Nat) (v : BitVec 32) {a : Nat}
    (h : ¬ pixelCovers (pixelLoc psm bp bw x y) a) : (writePixel m psm bp bw x y v).load a = m.load a :=
  load_writeField_outside m _ _ v h

/-! ## Widths -/

theorem pixelBits_range (psm : BitVec 6) :
    pixelBits psm = 4 ∨ pixelBits psm = 8 ∨ pixelBits psm = 16 ∨ pixelBits psm = 24 ∨ pixelBits psm = 32 := by
  unfold pixelBits formatBits
  split <;> decide

/-! ## Fields as bits -/

/-- The fields of a word, byte after byte. -/
def fieldSum (m : Memory) (loc : PixelLoc) (n K : Nat) : Nat := (List.range K).foldl (fun acc k => acc + fieldByte m loc n k) 0

theorem fieldSum_succ (m : Memory) (loc : PixelLoc) (n K : Nat) :
    fieldSum m loc n (K + 1) = fieldSum m loc n K + fieldByte m loc n K := by
  simp [fieldSum, List.range_succ]

/-- The three cases of `fieldByte` are one: the byte under its mask, in place. -/
theorem fieldByte_eq (m : Memory) (loc : PixelLoc) (n k : Nat) :
    fieldByte m loc n k = (m.load (loc.addr + k) &&& fieldMask loc.lo n k).toNat * 256 ^ k := by
  unfold fieldByte
  split
  · simp [*]
  · split
    · next hm => rw [hm, show (0xFF#8 : Byte) = BitVec.allOnes 8 by decide, BitVec.and_allOnes]
    · rfl

theorem pow256 (k : Nat) : 256 ^ k = 2 ^ (8 * k) := by rw [Nat.pow_mul]

theorem fieldMask_getLsbD (lo n k j : Nat) :
    (fieldMask lo n k).getLsbD j = (decide (j < 8) && decide (lo ≤ 8 * k + j) && decide (8 * k + j < lo + n)) := by
  unfold fieldMask
  rw [BitVec.getLsbD_ofNat, pow256, Nat.testBit_div_two_pow, Nat.mul_comm, Nat.testBit_two_pow_mul, Nat.testBit_two_pow_sub_one]
  by_cases h8 : j < 8 <;> by_cases hl : lo ≤ 8 * k + j
  · have : j + 8 * k ≥ lo := by omega
    have e : (j + 8 * k - lo < n) ↔ (8 * k + j < lo + n) := by omega
    simp [h8, hl, this, e]
  · have : ¬ j + 8 * k ≥ lo := by omega
    simp [h8, hl, this]
  · simp [h8]
  · simp [h8]

theorem fieldSum_lt (m : Memory) (loc : PixelLoc) (n K : Nat) : fieldSum m loc n K < 2 ^ (8 * K) := by
  induction K with
  | zero => simp [fieldSum]
  | succ K ih =>
    rw [fieldSum_succ, fieldByte_eq, pow256]
    have h := (m.load (loc.addr + K) &&& fieldMask loc.lo n K).isLt
    have e : 2 ^ (8 * (K + 1)) = 2 ^ (8 * K) * 2 ^ 8 := by rw [← Nat.pow_add]; congr 1
    rw [e]
    calc _ < 2 ^ (8 * K) + (m.load (loc.addr + K) &&& fieldMask loc.lo n K).toNat * 2 ^ (8 * K) := by omega
      _ = 2 ^ (8 * K) * ((m.load (loc.addr + K) &&& fieldMask loc.lo n K).toNat + 1) := by ring
      _ ≤ _ := Nat.mul_le_mul_left _ h

/-- Bit i of the word's fields: bit i of the pixel's word, where the field has it. -/
theorem fieldSum_testBit (m : Memory) (loc : PixelLoc) (n K i : Nat) :
    (fieldSum m loc n K).testBit i =
      (decide (i < 8 * K) && decide (loc.lo ≤ i) && decide (i < loc.lo + n) && (m.load (loc.addr + i / 8)).getLsbD (i % 8)) := by
  induction K with
  | zero => simp [fieldSum]
  | succ K ih =>
    rw [fieldSum_succ, fieldByte_eq, pow256, Nat.add_comm, Nat.mul_comm, Nat.testBit_two_pow_mul_add _ (fieldSum_lt m loc n K)]
    split
    · next h => rw [ih]; simp [h, Nat.lt_of_lt_of_le h (by omega : 8 * K ≤ 8 * (K + 1))]
    · next h =>
      rw [BitVec.testBit_toNat, BitVec.getLsbD_and, fieldMask_getLsbD]
      by_cases hi : i < 8 * (K + 1)
      · have e1 : i / 8 = K := by omega
        have e2 : i % 8 = i - 8 * K := by omega
        have e3 : 8 * K + (i - 8 * K) = i := by omega
        have e4 : i - 8 * K < 8 := by omega
        simp only [e1, e2, e3, e4, hi, decide_true, Bool.true_and]
        ac_rfl
      · have : ¬ i - 8 * K < 8 := by omega
        simp [hi, this]

theorem readField_eq (m : Memory) (loc : PixelLoc) (n : Nat) :
    readField m loc n = BitVec.ofNat 32 (fieldSum m loc n loc.bytes / 2 ^ loc.lo) := rfl

theorem fieldSum_div_lt (m : Memory) (loc : PixelLoc) (n K : Nat) : fieldSum m loc n K / 2 ^ loc.lo < 2 ^ n := by
  refine Nat.lt_pow_two_of_testBit _ fun i hi => ?_
  rw [Nat.testBit_div_two_pow, fieldSum_testBit]
  have : ¬ i + loc.lo < loc.lo + n := by omega
  simp [this]

/-- A pixel's value has its storage width (20_memory R88). -/
theorem readField_lt (m : Memory) (loc : PixelLoc) (n : Nat) : (readField m loc n).toNat < 2 ^ n := by
  rw [readField_eq, BitVec.toNat_ofNat]
  exact Nat.lt_of_le_of_lt (Nat.mod_le _ _) (fieldSum_div_lt m loc n _)

theorem readPixel_lt (m : Memory) (psm : BitVec 6) (bp bw x y : Nat) :
    (readPixel m psm bp bw x y).toNat < 2 ^ pixelBits psm := readField_lt m _ _

/-- What a field write stores in byte k, in every case of the mask. -/
theorem load_writeFieldByte_eq (m : Memory) (loc : PixelLoc) (n : Nat) (v : BitVec 32) (k a : Nat)
    (h : ∀ j < 8, (fieldMask loc.lo n k).getLsbD j = true →
      (((v.toNat % 2 ^ n) * 2 ^ loc.lo).testBit (8 * k + j)) = (m.load (loc.addr + k)).getLsbD j) :
    (writeFieldByte loc n v m k).load a = m.load a := by
  have hnew : ∀ j < 8, (fieldMask loc.lo n k).getLsbD j = true →
      (BitVec.ofNat 8 (((v.toNat % 2 ^ n) * 2 ^ loc.lo) / 256 ^ k) : Byte).getLsbD j = (m.load (loc.addr + k)).getLsbD j := by
    intro j hj hm
    rw [BitVec.getLsbD_ofNat, pow256, Nat.testBit_div_two_pow, ← h j hj hm, Nat.add_comm j]
    simp [hj]
  unfold writeFieldByte
  simp only []
  split
  · rfl
  · split
    · next hm =>
      have e : (BitVec.ofNat 8 (((v.toNat % 2 ^ n) * 2 ^ loc.lo) / 256 ^ k) : Byte) = m.load (loc.addr + k) := by
        refine BitVec.eq_of_getLsbD_eq fun j hj => hnew j hj ?_
        rw [hm, show (0xFF#8 : Byte) = BitVec.allOnes 8 by decide, BitVec.getLsbD_allOnes]
        simpa using hj
      rw [e]; exact load_store_self m _ a
    · have e : ((m.load (loc.addr + k) &&& ~~~(fieldMask loc.lo n k)) |||
          ((BitVec.ofNat 8 (((v.toNat % 2 ^ n) * 2 ^ loc.lo) / 256 ^ k) : Byte) &&& fieldMask loc.lo n k)) = m.load (loc.addr + k) := by
        refine BitVec.eq_of_getLsbD_eq fun j hj => ?_
        rw [BitVec.getLsbD_or, BitVec.getLsbD_and, BitVec.getLsbD_and, BitVec.getLsbD_not]
        by_cases hb : (fieldMask loc.lo n k).getLsbD j = true
        · rw [hnew j hj hb]; simp [hb]
        · rw [Bool.not_eq_true] at hb
          rw [hb]; simp
          omega
      rw [e]; exact load_store_self m _ a

/-- Writing back the value a pixel holds changes no byte. -/
theorem load_writeField_readField (m : Memory) (loc : PixelLoc) {n : Nat} (hn : n ≤ 32) (a : Nat) :
    (writeField m loc n (readField m loc n)).load a = m.load a := by
  have key : ∀ K ≤ loc.bytes, ∀ c,
      ((List.range K).foldl (writeFieldByte loc n (readField m loc n)) m).load c = m.load c := by
    intro K
    induction K with
    | zero => intro _ c; rfl
    | succ K ih =>
      intro hK c
      have ih := ih (by omega)
      rw [List.range_succ, List.foldl_append, List.foldl_cons, List.foldl_nil, load_writeFieldByte_eq, ih c]
      intro j hj hm
      rw [ih]
      have hv : (readField m loc n).toNat = fieldSum m loc n loc.bytes / 2 ^ loc.lo := by
        rw [readField_eq, BitVec.toNat_ofNat, Nat.mod_eq_of_lt]
        exact Nat.lt_of_lt_of_le (fieldSum_div_lt m loc n _) (Nat.pow_le_pow_right (by decide) hn)
      rw [hv, Nat.mod_eq_of_lt (fieldSum_div_lt m loc n _), Nat.mul_comm, Nat.testBit_two_pow_mul, Nat.testBit_div_two_pow,
        fieldSum_testBit]
      rw [fieldMask_getLsbD] at hm
      simp only [Bool.and_eq_true, decide_eq_true_eq] at hm
      have e1 : 8 * K + j - loc.lo + loc.lo = 8 * K + j := by omega
      have e2 : (8 * K + j) / 8 = K := by omega
      have e3 : (8 * K + j) % 8 = j := by omega
      have e4 : 8 * K + j < 8 * loc.bytes := by omega
      simp [e1, e2, e3, e4, hm.1.2, hm.2]
  exact key loc.bytes (Nat.le_refl _) a

/-! ## Field access, bit by bit (20_memory R88) -/

/-- Bit i of a field read is bit i of the field. -/
theorem readField_getLsbD (m : Memory) (loc : PixelLoc) {n i : Nat} (hn : n ≤ 32) (hf : loc.lo + n ≤ 8 * loc.bytes) :
    (readField m loc n).getLsbD i =
      (decide (i < n) && (m.load (loc.addr + (loc.lo + i) / 8)).getLsbD ((loc.lo + i) % 8)) := by
  rw [readField_eq, BitVec.getLsbD_ofNat, Nat.testBit_div_two_pow, fieldSum_testBit, Nat.add_comm i]
  by_cases h : i < n
  · simp [h, show i < 32 by omega, show loc.lo + i < 8 * loc.bytes by omega]
  · simp [h]

/-- The field write of one byte, bit by bit: the bits under its mask are the value's, all others stay. -/
theorem writeFieldByte_getLsbD (m : Memory) (loc : PixelLoc) (n : Nat) (v : BitVec 32) (k a j : Nat) :
    ((writeFieldByte loc n v m k).load a).getLsbD j =
      if a % Config.localMemBytes = (loc.addr + k) % Config.localMemBytes ∧ (fieldMask loc.lo n k).getLsbD j = true then
        ((v.toNat % 2 ^ n) * 2 ^ loc.lo).testBit (8 * k + j)
      else (m.load a).getLsbD j := by
  have hnew : j < 8 → (BitVec.ofNat 8 (((v.toNat % 2 ^ n) * 2 ^ loc.lo) / 256 ^ k) : Byte).getLsbD j =
      ((v.toNat % 2 ^ n) * 2 ^ loc.lo).testBit (8 * k + j) := by
    intro h
    rw [BitVec.getLsbD_ofNat, pow256, Nat.testBit_div_two_pow, Nat.add_comm j]
    simp [h]
  have hj : (fieldMask loc.lo n k).getLsbD j = true → j < 8 := fun h => BitVec.lt_of_getLsbD h
  by_cases ha : a % Config.localMemBytes = (loc.addr + k) % Config.localMemBytes
  · have hl : m.load a = m.load (loc.addr + k) := by simp [Memory.load, ha]
    unfold writeFieldByte
    simp only [ha, true_and, hl]
    split
    · next h0 => simp [h0, hl]
    · split
      · next h1 =>
        rw [load_store_same m _ ha, h1]
        by_cases h8 : j < 8
        · rw [if_pos (by rw [show (0xFF#8 : Byte) = BitVec.allOnes 8 by decide, BitVec.getLsbD_allOnes]; simpa using h8), hnew h8]
        · rw [if_neg (fun h => h8 (BitVec.lt_of_getLsbD h))]
          rw [BitVec.getLsbD_of_ge _ _ (by omega), BitVec.getLsbD_of_ge _ _ (by omega)]
      · rw [load_store_same m _ ha, BitVec.getLsbD_or, BitVec.getLsbD_and, BitVec.getLsbD_and, BitVec.getLsbD_not]
        by_cases hm : (fieldMask loc.lo n k).getLsbD j = true
        · rw [if_pos hm, hnew (hj hm)]; simp [hm]
        · rw [if_neg hm]
          rw [Bool.not_eq_true] at hm
          by_cases h8 : j < 8
          · rw [hm]; simp [h8]
          · simp [hm, BitVec.getLsbD_of_ge (m.load (loc.addr + k)) j (by omega)]
  · rw [load_writeFieldByte_ne m loc n v ha, if_neg (fun h => ha h.1)]

/-- Bit j of byte a is no bit of the field: a field write keeps it. -/
theorem writeField_getLsbD_outside (m : Memory) (loc : PixelLoc) (n : Nat) (v : BitVec 32) {a j : Nat}
    (h : ∀ i < n, a % Config.localMemBytes = (loc.addr + (loc.lo + i) / 8) % Config.localMemBytes → j ≠ (loc.lo + i) % 8) :
    ((writeField m loc n v).load a).getLsbD j = (m.load a).getLsbD j := by
  unfold writeField
  generalize loc.bytes = K
  induction K with
  | zero => rfl
  | succ K ih =>
    rw [List.range_succ, List.foldl_append, List.foldl_cons, List.foldl_nil, writeFieldByte_getLsbD, if_neg, ih]
    rintro ⟨ha, hm⟩
    rw [fieldMask_getLsbD] at hm
    simp only [Bool.and_eq_true, decide_eq_true_eq] at hm
    have e : loc.lo + (8 * K + j - loc.lo) = 8 * K + j := by omega
    refine h (8 * K + j - loc.lo) (by omega) ?_ (by rw [e]; omega)
    rw [e, show (8 * K + j) / 8 = K by omega]
    exact ha

/-- Bit i of the field is bit i of the value after a field write. -/
theorem writeField_getLsbD_inside (m : Memory) (loc : PixelLoc) {n i : Nat} (v : BitVec 32) (hn : n ≤ 32) (hi : i < n)
    (hf : loc.lo + n ≤ 8 * loc.bytes) :
    ((writeField m loc n v).load (loc.addr + (loc.lo + i) / 8)).getLsbD ((loc.lo + i) % 8) = v.getLsbD i := by
  have hv : ((v.toNat % 2 ^ n) * 2 ^ loc.lo).testBit (loc.lo + i) = v.getLsbD i := by
    rw [Nat.mul_comm, Nat.testBit_two_pow_mul, Nat.testBit_mod_two_pow]
    simp [hi, BitVec.getLsbD]
  have key : ∀ K, (loc.lo + i) / 8 < K →
      (((List.range K).foldl (writeFieldByte loc n v) m).load (loc.addr + (loc.lo + i) / 8)).getLsbD ((loc.lo + i) % 8) =
        v.getLsbD i := by
    intro K hK
    induction K with
    | zero => omega
    | succ K ih =>
      rw [List.range_succ, List.foldl_append, List.foldl_cons, List.foldl_nil, writeFieldByte_getLsbD]
      by_cases hk : (loc.lo + i) / 8 = K
      · rw [if_pos, ← hk, show 8 * ((loc.lo + i) / 8) + (loc.lo + i) % 8 = loc.lo + i by omega, hv]
        refine ⟨by rw [hk], ?_⟩
        rw [fieldMask_getLsbD]
        simp only [Bool.and_eq_true, decide_eq_true_eq]
        omega
      · rw [if_neg, ih (by omega)]
        rintro ⟨ha, hm⟩
        rw [fieldMask_getLsbD] at hm
        simp only [Bool.and_eq_true, decide_eq_true_eq] at hm
        simp only [Config.localMemBytes] at ha
        omega
  exact key loc.bytes (by omega)

/-- A field read after a write of it gives the value modulo 2^n. -/
theorem readField_writeField (m : Memory) (loc : PixelLoc) {n : Nat} (v : BitVec 32) (hn : n ≤ 32) (hf : loc.lo + n ≤ 8 * loc.bytes) :
    readField (writeField m loc n v) loc n = BitVec.ofNat 32 (v.toNat % 2 ^ n) := by
  refine BitVec.eq_of_getLsbD_eq fun i hi => ?_
  rw [readField_getLsbD _ loc hn hf, BitVec.getLsbD_ofNat, Nat.testBit_mod_two_pow]
  by_cases h : i < n
  · rw [writeField_getLsbD_inside m loc v hn h hf]; simp [h, hi, BitVec.getLsbD]
  · simp [h]

/-! ## Open layouts (20_memory R86, R88) -/

/-- The law of an open layout: pixels at different coordinates, modulo 2048, differ in their address or their lowest bit. -/
theorem openPixelLoc_injective {psm : BitVec 6} {bp bw x y x' y' : Nat}
    (ha : (openPixelLoc psm bp bw x y).addr = (openPixelLoc psm bp bw x' y').addr)
    (hl : (openPixelLoc psm bp bw x y).lo = (openPixelLoc psm bp bw x' y').lo) : x = x' ∧ y = y' := by
  have h : Config.openPlace psm bp bw (x, y) = Config.openPlace psm bp bw (x', y') := Prod.ext ha hl
  simpa using (Config.openPlace psm bp bw).injective h

/-- A pixel's bits lie in its word, in every format. -/
theorem pixelLoc_fits (psm : BitVec 6) (bp bw x y : Nat) :
    (pixelLoc psm bp bw x y).lo + pixelBits psm ≤ 8 * (pixelLoc psm bp bw x y).bytes := by
  unfold pixelLoc
  dsimp only
  split
  case h_6 => simp only [openPixelLoc]; omega
  all_goals simp [pixelBits, formatBits]

theorem pixelBits_le (psm : BitVec 6) : pixelBits psm ≤ 32 := by
  rcases pixelBits_range psm with h | h | h | h | h <;> omega

/-- A pixel read after a write of it gives the value modulo 2^n. -/
theorem readPixel_writePixel (m : Memory) (psm : BitVec 6) (bp bw x y : Nat) (v : BitVec 32) :
    readPixel (writePixel m psm bp bw x y v) psm bp bw x y = BitVec.ofNat 32 (v.toNat % 2 ^ pixelBits psm) :=
  readField_writeField m _ v (pixelBits_le psm) (pixelLoc_fits psm bp bw x y)

/-- Writing back the value a pixel holds changes no byte. -/
theorem load_writePixel_readPixel (m : Memory) (psm : BitVec 6) (bp bw x y a : Nat) :
    (writePixel m psm bp bw x y (readPixel m psm bp bw x y)).load a = m.load a :=
  load_writeField_readField m _ (pixelBits_le psm) a

end Sys2Proof.Machine
end

