-- ==== Sys2Proof/Laws/State.lean ====
section
/-! SUPPORT. One small lemma per field and update of the state, so that no later proof unfolds a record update. -/

namespace Sys2Proof.Machine

variable (s : State)

/-! ### emit -/

@[simp] theorem emit_path0 (e : Event) : (emit e s).path0 = s.path0 := rfl
@[simp] theorem emit_path1 (e : Event) : (emit e s).path1 = s.path1 := rfl
@[simp] theorem emit_path2 (e : Event) : (emit e s).path2 = s.path2 := rfl
@[simp] theorem emit_path3 (e : Event) : (emit e s).path3 = s.path3 := rfl
@[simp] theorem emit_env (e : Event) : (emit e s).env = s.env := rfl
@[simp] theorem emit_ctx0 (e : Event) : (emit e s).ctx0 = s.ctx0 := rfl
@[simp] theorem emit_ctx1 (e : Event) : (emit e s).ctx1 = s.ctx1 := rfl
@[simp] theorem emit_vacc (e : Event) : (emit e s).vacc = s.vacc := rfl
@[simp] theorem emit_qint (e : Event) : (emit e s).qint = s.qint := rfl
@[simp] theorem emit_vq (e : Event) : (emit e s).vq = s.vq := rfl
@[simp] theorem emit_win (e : Event) : (emit e s).win = s.win := rfl
@[simp] theorem emit_xfer (e : Event) : (emit e s).xfer = s.xfer := rfl
@[simp] theorem emit_mem (e : Event) : (emit e s).mem = s.mem := rfl
@[simp] theorem emit_fault (e : Event) : (emit e s).fault = s.fault := rfl
@[simp] theorem emit_refused (e : Event) : (emit e s).refused = s.refused := rfl
@[simp] theorem emit_cfg (e : Event) : (emit e s).cfg = s.cfg := rfl
@[simp] theorem emit_calls (e : Event) : (emit e s).calls = s.calls := rfl
@[simp] theorem emit_feed (e : Event) : (emit e s).feed = s.feed := rfl
@[simp] theorem emit_replies (e : Event) : (emit e s).replies = s.replies := rfl
@[simp] theorem emit_blobs (e : Event) : (emit e s).blobs = s.blobs := rfl
@[simp] theorem emit_freeCount (e : Event) : (emit e s).freeCount = s.freeCount := rfl

@[simp] theorem emit_out (e : Event) : (emit e s).out = s.out ++ [e] := rfl

/-! ### endFeed -/

@[simp] theorem endFeed_path0 : (endFeed s).path0 = s.path0 := rfl
@[simp] theorem endFeed_path1 : (endFeed s).path1 = s.path1 := rfl
@[simp] theorem endFeed_path2 : (endFeed s).path2 = s.path2 := rfl
@[simp] theorem endFeed_path3 : (endFeed s).path3 = s.path3 := rfl
@[simp] theorem endFeed_env : (endFeed s).env = s.env := rfl
@[simp] theorem endFeed_ctx0 : (endFeed s).ctx0 = s.ctx0 := rfl
@[simp] theorem endFeed_ctx1 : (endFeed s).ctx1 = s.ctx1 := rfl
@[simp] theorem endFeed_vacc : (endFeed s).vacc = s.vacc := rfl
@[simp] theorem endFeed_qint : (endFeed s).qint = s.qint := rfl
@[simp] theorem endFeed_vq : (endFeed s).vq = s.vq := rfl
@[simp] theorem endFeed_win : (endFeed s).win = s.win := rfl
@[simp] theorem endFeed_xfer : (endFeed s).xfer = s.xfer := rfl
@[simp] theorem endFeed_mem : (endFeed s).mem = s.mem := rfl
@[simp] theorem endFeed_fault : (endFeed s).fault = s.fault := rfl
@[simp] theorem endFeed_refused : (endFeed s).refused = s.refused := rfl
@[simp] theorem endFeed_out : (endFeed s).out = s.out := rfl
@[simp] theorem endFeed_cfg : (endFeed s).cfg = s.cfg := rfl
@[simp] theorem endFeed_calls : (endFeed s).calls = s.calls := rfl
@[simp] theorem endFeed_replies : (endFeed s).replies = s.replies := rfl
@[simp] theorem endFeed_blobs : (endFeed s).blobs = s.blobs := rfl
@[simp] theorem endFeed_freeCount : (endFeed s).freeCount = s.freeCount := rfl

@[simp] theorem endFeed_qwords : (endFeed s).feed.qwords = [] := rfl
@[simp] theorem endFeed_feed_path : (endFeed s).feed.path = s.feed.path := rfl

/-! ### raise -/

@[simp] theorem raise_path0 (f : Fault) : (raise f s).path0 = s.path0 := rfl
@[simp] theorem raise_path1 (f : Fault) : (raise f s).path1 = s.path1 := rfl
@[simp] theorem raise_path2 (f : Fault) : (raise f s).path2 = s.path2 := rfl
@[simp] theorem raise_path3 (f : Fault) : (raise f s).path3 = s.path3 := rfl
@[simp] theorem raise_env (f : Fault) : (raise f s).env = s.env := rfl
@[simp] theorem raise_ctx0 (f : Fault) : (raise f s).ctx0 = s.ctx0 := rfl
@[simp] theorem raise_ctx1 (f : Fault) : (raise f s).ctx1 = s.ctx1 := rfl
@[simp] theorem raise_vacc (f : Fault) : (raise f s).vacc = s.vacc := rfl
@[simp] theorem raise_qint (f : Fault) : (raise f s).qint = s.qint := rfl
@[simp] theorem raise_vq (f : Fault) : (raise f s).vq = s.vq := rfl
@[simp] theorem raise_win (f : Fault) : (raise f s).win = s.win := rfl
@[simp] theorem raise_xfer (f : Fault) : (raise f s).xfer = s.xfer := rfl
@[simp] theorem raise_mem (f : Fault) : (raise f s).mem = s.mem := rfl
@[simp] theorem raise_refused (f : Fault) : (raise f s).refused = s.refused := rfl
@[simp] theorem raise_out (f : Fault) : (raise f s).out = s.out := rfl
@[simp] theorem raise_cfg (f : Fault) : (raise f s).cfg = s.cfg := rfl
@[simp] theorem raise_calls (f : Fault) : (raise f s).calls = s.calls := rfl
@[simp] theorem raise_replies (f : Fault) : (raise f s).replies = s.replies := rfl
@[simp] theorem raise_blobs (f : Fault) : (raise f s).blobs = s.blobs := rfl
@[simp] theorem raise_freeCount (f : Fault) : (raise f s).freeCount = s.freeCount := rfl

@[simp] theorem raise_fault (f : Fault) : (raise f s).fault = some f := rfl
@[simp] theorem raise_qwords (f : Fault) : (raise f s).feed.qwords = [] := rfl
@[simp] theorem raise_feed_path (f : Fault) : (raise f s).feed.path = s.feed.path := rfl

/-! ### refuse -/

@[simp] theorem refuse_path0 (r : Refusal) : (refuse r s).path0 = s.path0 := rfl
@[simp] theorem refuse_path1 (r : Refusal) : (refuse r s).path1 = s.path1 := rfl
@[simp] theorem refuse_path2 (r : Refusal) : (refuse r s).path2 = s.path2 := rfl
@[simp] theorem refuse_path3 (r : Refusal) : (refuse r s).path3 = s.path3 := rfl
@[simp] theorem refuse_env (r : Refusal) : (refuse r s).env = s.env := rfl
@[simp] theorem refuse_ctx0 (r : Refusal) : (refuse r s).ctx0 = s.ctx0 := rfl
@[simp] theorem refuse_ctx1 (r : Refusal) : (refuse r s).ctx1 = s.ctx1 := rfl
@[simp] theorem refuse_vacc (r : Refusal) : (refuse r s).vacc = s.vacc := rfl
@[simp] theorem refuse_qint (r : Refusal) : (refuse r s).qint = s.qint := rfl
@[simp] theorem refuse_vq (r : Refusal) : (refuse r s).vq = s.vq := rfl
@[simp] theorem refuse_win (r : Refusal) : (refuse r s).win = s.win := rfl
@[simp] theorem refuse_xfer (r : Refusal) : (refuse r s).xfer = s.xfer := rfl
@[simp] theorem refuse_mem (r : Refusal) : (refuse r s).mem = s.mem := rfl
@[simp] theorem refuse_fault (r : Refusal) : (refuse r s).fault = s.fault := rfl
@[simp] theorem refuse_out (r : Refusal) : (refuse r s).out = s.out := rfl
@[simp] theorem refuse_cfg (r : Refusal) : (refuse r s).cfg = s.cfg := rfl
@[simp] theorem refuse_calls (r : Refusal) : (refuse r s).calls = s.calls := rfl
@[simp] theorem refuse_replies (r : Refusal) : (refuse r s).replies = s.replies := rfl
@[simp] theorem refuse_blobs (r : Refusal) : (refuse r s).blobs = s.blobs := rfl
@[simp] theorem refuse_freeCount (r : Refusal) : (refuse r s).freeCount = s.freeCount := rfl

@[simp] theorem refuse_refused (r : Refusal) : (refuse r s).refused = some r := rfl
@[simp] theorem refuse_qwords (r : Refusal) : (refuse r s).feed.qwords = [] := rfl
@[simp] theorem refuse_feed_path (r : Refusal) : (refuse r s).feed.path = s.feed.path := rfl

/-! ### setEnv -/

@[simp] theorem setEnv_path0 (r : EnvReg) (v : Word64) : (setEnv r v s).path0 = s.path0 := rfl
@[simp] theorem setEnv_path1 (r : EnvReg) (v : Word64) : (setEnv r v s).path1 = s.path1 := rfl
@[simp] theorem setEnv_path2 (r : EnvReg) (v : Word64) : (setEnv r v s).path2 = s.path2 := rfl
@[simp] theorem setEnv_path3 (r : EnvReg) (v : Word64) : (setEnv r v s).path3 = s.path3 := rfl
@[simp] theorem setEnv_ctx0 (r : EnvReg) (v : Word64) : (setEnv r v s).ctx0 = s.ctx0 := rfl
@[simp] theorem setEnv_ctx1 (r : EnvReg) (v : Word64) : (setEnv r v s).ctx1 = s.ctx1 := rfl
@[simp] theorem setEnv_vacc (r : EnvReg) (v : Word64) : (setEnv r v s).vacc = s.vacc := rfl
@[simp] theorem setEnv_qint (r : EnvReg) (v : Word64) : (setEnv r v s).qint = s.qint := rfl
@[simp] theorem setEnv_vq (r : EnvReg) (v : Word64) : (setEnv r v s).vq = s.vq := rfl
@[simp] theorem setEnv_win (r : EnvReg) (v : Word64) : (setEnv r v s).win = s.win := rfl
@[simp] theorem setEnv_xfer (r : EnvReg) (v : Word64) : (setEnv r v s).xfer = s.xfer := rfl
@[simp] theorem setEnv_mem (r : EnvReg) (v : Word64) : (setEnv r v s).mem = s.mem := rfl
@[simp] theorem setEnv_fault (r : EnvReg) (v : Word64) : (setEnv r v s).fault = s.fault := rfl
@[simp] theorem setEnv_refused (r : EnvReg) (v : Word64) : (setEnv r v s).refused = s.refused := rfl
@[simp] theorem setEnv_out (r : EnvReg) (v : Word64) : (setEnv r v s).out = s.out := rfl
@[simp] theorem setEnv_cfg (r : EnvReg) (v : Word64) : (setEnv r v s).cfg = s.cfg := rfl
@[simp] theorem setEnv_calls (r : EnvReg) (v : Word64) : (setEnv r v s).calls = s.calls := rfl
@[simp] theorem setEnv_feed (r : EnvReg) (v : Word64) : (setEnv r v s).feed = s.feed := rfl
@[simp] theorem setEnv_replies (r : EnvReg) (v : Word64) : (setEnv r v s).replies = s.replies := rfl
@[simp] theorem setEnv_blobs (r : EnvReg) (v : Word64) : (setEnv r v s).blobs = s.blobs := rfl
@[simp] theorem setEnv_freeCount (r : EnvReg) (v : Word64) : (setEnv r v s).freeCount = s.freeCount := rfl

@[simp] theorem setEnv_env (r : EnvReg) (v : Word64) : (setEnv r v s).env = s.env.set r v := rfl

/-! ### setPath -/

@[simp] theorem setPath_env (p : PathId) (v : PathState) : (s.setPath p v).env = s.env := by cases p <;> rfl
@[simp] theorem setPath_ctx0 (p : PathId) (v : PathState) : (s.setPath p v).ctx0 = s.ctx0 := by cases p <;> rfl
@[simp] theorem setPath_ctx1 (p : PathId) (v : PathState) : (s.setPath p v).ctx1 = s.ctx1 := by cases p <;> rfl
@[simp] theorem setPath_vacc (p : PathId) (v : PathState) : (s.setPath p v).vacc = s.vacc := by cases p <;> rfl
@[simp] theorem setPath_qint (p : PathId) (v : PathState) : (s.setPath p v).qint = s.qint := by cases p <;> rfl
@[simp] theorem setPath_vq (p : PathId) (v : PathState) : (s.setPath p v).vq = s.vq := by cases p <;> rfl
@[simp] theorem setPath_win (p : PathId) (v : PathState) : (s.setPath p v).win = s.win := by cases p <;> rfl
@[simp] theorem setPath_xfer (p : PathId) (v : PathState) : (s.setPath p v).xfer = s.xfer := by cases p <;> rfl
@[simp] theorem setPath_mem (p : PathId) (v : PathState) : (s.setPath p v).mem = s.mem := by cases p <;> rfl
@[simp] theorem setPath_fault (p : PathId) (v : PathState) : (s.setPath p v).fault = s.fault := by cases p <;> rfl
@[simp] theorem setPath_refused (p : PathId) (v : PathState) : (s.setPath p v).refused = s.refused := by cases p <;> rfl
@[simp] theorem setPath_out (p : PathId) (v : PathState) : (s.setPath p v).out = s.out := by cases p <;> rfl
@[simp] theorem setPath_cfg (p : PathId) (v : PathState) : (s.setPath p v).cfg = s.cfg := by cases p <;> rfl
@[simp] theorem setPath_calls (p : PathId) (v : PathState) : (s.setPath p v).calls = s.calls := by cases p <;> rfl
@[simp] theorem setPath_feed (p : PathId) (v : PathState) : (s.setPath p v).feed = s.feed := by cases p <;> rfl
@[simp] theorem setPath_replies (p : PathId) (v : PathState) : (s.setPath p v).replies = s.replies := by cases p <;> rfl
@[simp] theorem setPath_blobs (p : PathId) (v : PathState) : (s.setPath p v).blobs = s.blobs := by cases p <;> rfl
@[simp] theorem setPath_freeCount (p : PathId) (v : PathState) : (s.setPath p v).freeCount = s.freeCount := by cases p <;> rfl

/-! ### setCtx -/

@[simp] theorem setCtx_path0 (c : CtxId) (v : Ctx) : (s.setCtx c v).path0 = s.path0 := by cases c <;> rfl
@[simp] theorem setCtx_path1 (c : CtxId) (v : Ctx) : (s.setCtx c v).path1 = s.path1 := by cases c <;> rfl
@[simp] theorem setCtx_path2 (c : CtxId) (v : Ctx) : (s.setCtx c v).path2 = s.path2 := by cases c <;> rfl
@[simp] theorem setCtx_path3 (c : CtxId) (v : Ctx) : (s.setCtx c v).path3 = s.path3 := by cases c <;> rfl
@[simp] theorem setCtx_env (c : CtxId) (v : Ctx) : (s.setCtx c v).env = s.env := by cases c <;> rfl
@[simp] theorem setCtx_vacc (c : CtxId) (v : Ctx) : (s.setCtx c v).vacc = s.vacc := by cases c <;> rfl
@[simp] theorem setCtx_qint (c : CtxId) (v : Ctx) : (s.setCtx c v).qint = s.qint := by cases c <;> rfl
@[simp] theorem setCtx_vq (c : CtxId) (v : Ctx) : (s.setCtx c v).vq = s.vq := by cases c <;> rfl
@[simp] theorem setCtx_win (c : CtxId) (v : Ctx) : (s.setCtx c v).win = s.win := by cases c <;> rfl
@[simp] theorem setCtx_xfer (c : CtxId) (v : Ctx) : (s.setCtx c v).xfer = s.xfer := by cases c <;> rfl
@[simp] theorem setCtx_mem (c : CtxId) (v : Ctx) : (s.setCtx c v).mem = s.mem := by cases c <;> rfl
@[simp] theorem setCtx_fault (c : CtxId) (v : Ctx) : (s.setCtx c v).fault = s.fault := by cases c <;> rfl
@[simp] theorem setCtx_refused (c : CtxId) (v : Ctx) : (s.setCtx c v).refused = s.refused := by cases c <;> rfl
@[simp] theorem setCtx_out (c : CtxId) (v : Ctx) : (s.setCtx c v).out = s.out := by cases c <;> rfl
@[simp] theorem setCtx_cfg (c : CtxId) (v : Ctx) : (s.setCtx c v).cfg = s.cfg := by cases c <;> rfl
@[simp] theorem setCtx_calls (c : CtxId) (v : Ctx) : (s.setCtx c v).calls = s.calls := by cases c <;> rfl
@[simp] theorem setCtx_feed (c : CtxId) (v : Ctx) : (s.setCtx c v).feed = s.feed := by cases c <;> rfl
@[simp] theorem setCtx_replies (c : CtxId) (v : Ctx) : (s.setCtx c v).replies = s.replies := by cases c <;> rfl
@[simp] theorem setCtx_blobs (c : CtxId) (v : Ctx) : (s.setCtx c v).blobs = s.blobs := by cases c <;> rfl
@[simp] theorem setCtx_freeCount (c : CtxId) (v : Ctx) : (s.setCtx c v).freeCount = s.freeCount := by cases c <;> rfl

/-! ### setCtxReg -/

@[simp] theorem setCtxReg_path0 (r : CtxReg) (c : CtxId) (v : Word64) : (setCtxReg r c v s).path0 = s.path0 := by cases c <;> rfl
@[simp] theorem setCtxReg_path1 (r : CtxReg) (c : CtxId) (v : Word64) : (setCtxReg r c v s).path1 = s.path1 := by cases c <;> rfl
@[simp] theorem setCtxReg_path2 (r : CtxReg) (c : CtxId) (v : Word64) : (setCtxReg r c v s).path2 = s.path2 := by cases c <;> rfl
@[simp] theorem setCtxReg_path3 (r : CtxReg) (c : CtxId) (v : Word64) : (setCtxReg r c v s).path3 = s.path3 := by cases c <;> rfl
@[simp] theorem setCtxReg_env (r : CtxReg) (c : CtxId) (v : Word64) : (setCtxReg r c v s).env = s.env := by cases c <;> rfl
@[simp] theorem setCtxReg_vacc (r : CtxReg) (c : CtxId) (v : Word64) : (setCtxReg r c v s).vacc = s.vacc := by cases c <;> rfl
@[simp] theorem setCtxReg_qint (r : CtxReg) (c : CtxId) (v : Word64) : (setCtxReg r c v s).qint = s.qint := by cases c <;> rfl
@[simp] theorem setCtxReg_vq (r : CtxReg) (c : CtxId) (v : Word64) : (setCtxReg r c v s).vq = s.vq := by cases c <;> rfl
@[simp] theorem setCtxReg_win (r : CtxReg) (c : CtxId) (v : Word64) : (setCtxReg r c v s).win = s.win := by cases c <;> rfl
@[simp] theorem setCtxReg_xfer (r : CtxReg) (c : CtxId) (v : Word64) : (setCtxReg r c v s).xfer = s.xfer := by cases c <;> rfl
@[simp] theorem setCtxReg_mem (r : CtxReg) (c : CtxId) (v : Word64) : (setCtxReg r c v s).mem = s.mem := by cases c <;> rfl
@[simp] theorem setCtxReg_fault (r : CtxReg) (c : CtxId) (v : Word64) : (setCtxReg r c v s).fault = s.fault := by cases c <;> rfl
@[simp] theorem setCtxReg_refused (r : CtxReg) (c : CtxId) (v : Word64) : (setCtxReg r c v s).refused = s.refused := by cases c <;> rfl
@[simp] theorem setCtxReg_out (r : CtxReg) (c : CtxId) (v : Word64) : (setCtxReg r c v s).out = s.out := by cases c <;> rfl
@[simp] theorem setCtxReg_cfg (r : CtxReg) (c : CtxId) (v : Word64) : (setCtxReg r c v s).cfg = s.cfg := by cases c <;> rfl
@[simp] theorem setCtxReg_calls (r : CtxReg) (c : CtxId) (v : Word64) : (setCtxReg r c v s).calls = s.calls := by cases c <;> rfl
@[simp] theorem setCtxReg_feed (r : CtxReg) (c : CtxId) (v : Word64) : (setCtxReg r c v s).feed = s.feed := by cases c <;> rfl
@[simp] theorem setCtxReg_replies (r : CtxReg) (c : CtxId) (v : Word64) : (setCtxReg r c v s).replies = s.replies := by cases c <;> rfl
@[simp] theorem setCtxReg_blobs (r : CtxReg) (c : CtxId) (v : Word64) : (setCtxReg r c v s).blobs = s.blobs := by cases c <;> rfl
@[simp] theorem setCtxReg_freeCount (r : CtxReg) (c : CtxId) (v : Word64) : (setCtxReg r c v s).freeCount = s.freeCount := by cases c <;> rfl

/-! ### flush -/

@[simp] theorem flush_path0 : (flush s).path0 = s.path0 := by unfold flush; split <;> rfl
@[simp] theorem flush_path1 : (flush s).path1 = s.path1 := by unfold flush; split <;> rfl
@[simp] theorem flush_path2 : (flush s).path2 = s.path2 := by unfold flush; split <;> rfl
@[simp] theorem flush_path3 : (flush s).path3 = s.path3 := by unfold flush; split <;> rfl
@[simp] theorem flush_env : (flush s).env = s.env := by unfold flush; split <;> rfl
@[simp] theorem flush_ctx0 : (flush s).ctx0 = s.ctx0 := by unfold flush; split <;> rfl
@[simp] theorem flush_ctx1 : (flush s).ctx1 = s.ctx1 := by unfold flush; split <;> rfl
@[simp] theorem flush_vacc : (flush s).vacc = s.vacc := by unfold flush; split <;> rfl
@[simp] theorem flush_qint : (flush s).qint = s.qint := by unfold flush; split <;> rfl
@[simp] theorem flush_win : (flush s).win = s.win := by unfold flush; split <;> rfl
@[simp] theorem flush_xfer : (flush s).xfer = s.xfer := by unfold flush; split <;> rfl
@[simp] theorem flush_fault : (flush s).fault = s.fault := by unfold flush; split <;> rfl
@[simp] theorem flush_refused : (flush s).refused = s.refused := by unfold flush; split <;> rfl
@[simp] theorem flush_cfg : (flush s).cfg = s.cfg := by unfold flush; split <;> rfl
@[simp] theorem flush_calls : (flush s).calls = s.calls := by unfold flush; split <;> rfl
@[simp] theorem flush_feed : (flush s).feed = s.feed := by unfold flush; split <;> rfl
@[simp] theorem flush_blobs : (flush s).blobs = s.blobs := by unfold flush; split <;> rfl

/-! ### fogSet -/

@[simp] theorem fogSet_path0 (f : BitVec 8) : (fogSet f s).path0 = s.path0 := rfl
@[simp] theorem fogSet_path1 (f : BitVec 8) : (fogSet f s).path1 = s.path1 := rfl
@[simp] theorem fogSet_path2 (f : BitVec 8) : (fogSet f s).path2 = s.path2 := rfl
@[simp] theorem fogSet_path3 (f : BitVec 8) : (fogSet f s).path3 = s.path3 := rfl
@[simp] theorem fogSet_env (f : BitVec 8) : (fogSet f s).env = s.env := rfl
@[simp] theorem fogSet_ctx0 (f : BitVec 8) : (fogSet f s).ctx0 = s.ctx0 := rfl
@[simp] theorem fogSet_ctx1 (f : BitVec 8) : (fogSet f s).ctx1 = s.ctx1 := rfl
@[simp] theorem fogSet_qint (f : BitVec 8) : (fogSet f s).qint = s.qint := rfl
@[simp] theorem fogSet_vq (f : BitVec 8) : (fogSet f s).vq = s.vq := rfl
@[simp] theorem fogSet_win (f : BitVec 8) : (fogSet f s).win = s.win := rfl
@[simp] theorem fogSet_xfer (f : BitVec 8) : (fogSet f s).xfer = s.xfer := rfl
@[simp] theorem fogSet_mem (f : BitVec 8) : (fogSet f s).mem = s.mem := rfl
@[simp] theorem fogSet_fault (f : BitVec 8) : (fogSet f s).fault = s.fault := rfl
@[simp] theorem fogSet_refused (f : BitVec 8) : (fogSet f s).refused = s.refused := rfl
@[simp] theorem fogSet_out (f : BitVec 8) : (fogSet f s).out = s.out := rfl
@[simp] theorem fogSet_cfg (f : BitVec 8) : (fogSet f s).cfg = s.cfg := rfl
@[simp] theorem fogSet_calls (f : BitVec 8) : (fogSet f s).calls = s.calls := rfl
@[simp] theorem fogSet_feed (f : BitVec 8) : (fogSet f s).feed = s.feed := rfl
@[simp] theorem fogSet_replies (f : BitVec 8) : (fogSet f s).replies = s.replies := rfl
@[simp] theorem fogSet_blobs (f : BitVec 8) : (fogSet f s).blobs = s.blobs := rfl
@[simp] theorem fogSet_freeCount (f : BitVec 8) : (fogSet f s).freeCount = s.freeCount := rfl

/-! ### Paths, contexts and registers by name -/

@[simp] theorem path_setPath_same (p : PathId) (v : PathState) : (s.setPath p v).path p = v := by cases p <;> rfl

theorem path_setPath_ne {p q : PathId} (h : q ≠ p) (v : PathState) : (s.setPath p v).path q = s.path q := by
  cases p <;> cases q <;> first | rfl | exact absurd rfl h

theorem path_eq {s t : State} (h0 : t.path0 = s.path0) (h1 : t.path1 = s.path1) (h2 : t.path2 = s.path2) (h3 : t.path3 = s.path3)
    (p : PathId) : t.path p = s.path p := by cases p <;> simp [State.path, *]

@[simp] theorem ctx_setCtx_same (c : CtxId) (v : Ctx) : (s.setCtx c v).ctx c = v := by cases c <;> rfl

theorem ctx_setCtx_ne {c d : CtxId} (h : d ≠ c) (v : Ctx) : (s.setCtx c v).ctx d = s.ctx d := by
  cases c <;> cases d <;> first | rfl | exact absurd rfl h

@[simp] theorem ctx_setCtxReg_same (r : CtxReg) (c : CtxId) (v : Word64) : (setCtxReg r c v s).ctx c = (s.ctx c).set r v := by
  cases c <;> rfl

theorem ctx_setCtxReg_ne {c d : CtxId} (h : d ≠ c) (r : CtxReg) (v : Word64) : (setCtxReg r c v s).ctx d = s.ctx d := by
  cases c <;> cases d <;> first | rfl | exact absurd rfl h

theorem ctx_eq {s t : State} (h0 : t.ctx0 = s.ctx0) (h1 : t.ctx1 = s.ctx1) (c : CtxId) : t.ctx c = s.ctx c := by
  cases c <;> simp [State.ctx, *]

@[simp] theorem Env.get_set_same (e : Env) (r : EnvReg) (v : Word64) : (e.set r v).get r = v := by cases r <;> rfl

theorem Env.get_set_ne (e : Env) {r q : EnvReg} (h : q ≠ r) (v : Word64) : (e.set r v).get q = e.get q := by
  cases r <;> cases q <;> first | rfl | exact absurd rfl h

@[simp] theorem Ctx.get_set_same (c : Ctx) (r : CtxReg) (v : Word64) : (c.set r v).get r = v := by cases r <;> rfl

theorem Ctx.get_set_ne (c : Ctx) {r q : CtxReg} (h : q ≠ r) (v : Word64) : (c.set r v).get q = c.get q := by
  cases r <;> cases q <;> first | rfl | exact absurd rfl h

/-- Writing a register the value it holds changes nothing. -/
theorem Ctx.set_get_self (c : Ctx) (r : CtxReg) : c.set r (c.get r) = c := by cases r <;> rfl

theorem Env.set_get_self (e : Env) (r : EnvReg) : e.set r (e.get r) = e := by cases r <;> rfl

/-! ### Derived selectors read only registers and the policy -/

theorem attr_congr {s t : State} (h : t.env = s.env) : t.attr = s.attr := by
  unfold State.attr State.ac; rw [h]

theorem actx_congr {s t : State} (h : t.env = s.env) : t.actx = s.actx := by
  unfold State.actx; rw [attr_congr h]

theorem topology_congr {s t : State} (he : t.env = s.env) (hc : t.cfg = s.cfg) : t.topology = s.topology := by
  simp [State.topology, he, hc]

@[simp] theorem flush_attr : (flush s).attr = s.attr := attr_congr (by simp)
@[simp] theorem flush_actx : (flush s).actx = s.actx := actx_congr (by simp)
@[simp] theorem flush_topology : (flush s).topology = s.topology := topology_congr (by simp) (by simp)
@[simp] theorem flush_ctx (c : CtxId) : (flush s).ctx c = s.ctx c := ctx_eq (by simp) (by simp) c
@[simp] theorem flush_path (p : PathId) : (flush s).path p = s.path p := path_eq (by simp) (by simp) (by simp) (by simp) p

end Sys2Proof.Machine
end

