-- ==== Sys2Proof/Laws/Queue.lean ====
section
/-! SUPPORT. The vertex queue's operations keep its invariant (42_vertex_kick R313): carry-forward, accept, reject, restart. -/

namespace Sys2Proof.Machine

theorem verts_pos (t : Topology) : 1 ≤ t.verts := by cases t <;> decide

/-- The topologies of one class need the same number of vertices (42_vertex_kick R300). -/
theorem verts_of_cls {t u : Topology} (h : t.cls = u.cls) : t.verts = u.verts := by
  cases t <;> cases u <;> first | rfl | exact absurd h (by decide)

/-- A class is discarded whole (42_vertex_kick R300). -/
theorem discard_iff_cls (t : Topology) : t.group = .discard ↔ t.cls = .invalid := by cases t <;> decide

/-- Between kicks, a pending group has a class that is drawn (43_flush_draw R355). -/
theorem VertexQueue.Between.cls_ne_invalid {q : VertexQueue} {t : Topology} (h : q.Between t) (hi : q.ibuf ≠ []) : t.cls ≠ .invalid :=
  fun hc => hi (h.discardNone ((discard_iff_cls t).2 hc))

theorem fan_iff_group (t : Topology) : t = .triangleFan ↔ t.group = .fan := by cases t <;> decide

/-! ## Carry-forward (43_flush_draw R344) -/

theorem carried_length_le (t : Topology) (q : VertexQueue) : (carried t q).length ≤ q.vbuf.length - q.head := by
  unfold carried
  split
  · simp
  · split
    · split
      · simp only [List.length_append, List.length_take, List.length_drop]; omega
      · simp only [List.length_take, List.length_drop]; omega
    · simp

theorem carryForward_cursorsOk (t : Topology) (q : VertexQueue) : (carryForward t q).CursorsOk where
  head_le := Nat.zero_le _
  next_le := Nat.min_le_right _ _
  index_lt := by simp [carryForward]

theorem carryForward_between {t : Topology} {q : VertexQueue} (hb : q.Between t) : (carryForward t q).Between t where
  whole := by simp [carryForward]
  partialFew h := Nat.lt_of_le_of_lt (by simpa [carryForward] using carried_length_le t q) (hb.partialFew h)
  listNext h := by have := hb.listNext h; simp only [carryForward]; omega
  discardNone _ := rfl

/-! ## Accept and reject (42_vertex_kick R308, R309) -/

/-- The queue when a primitive is complete: its vertices are exactly the last n, but for the fan (42_vertex_kick R313). -/
structure VertexQueue.Complete (q : VertexQueue) (t : Topology) : Prop where
  index_lt : ∀ i ∈ q.ibuf, i < q.next
  next_lt : q.next < q.vbuf.length
  whole : q.ibuf.length % t.verts = 0
  exact : t.group ≠ .fan → q.vbuf.length = q.head + t.verts
  fan : t.group = .fan → q.head + t.verts ≤ q.vbuf.length
  listNext : t.group = .list → q.next ≤ q.head
  discardNone : t.group = .discard → q.ibuf = []

theorem reject_ok {t : Topology} {q : VertexQueue} (h : q.Complete t) : (q.reject t).CursorsOk ∧ (q.reject t).Between t := by
  obtain ⟨hi, hn, hw, he, hf, hl, hd⟩ := h
  have hv := verts_pos t
  cases hg : t.group <;> simp only [VertexQueue.reject, hg]
  case list =>
    have he := he (by simp [hg])
    have hl := hl hg
    have e : min q.head q.vbuf.length = q.head := by omega
    exact ⟨⟨by simp; omega, by simp; omega, hi⟩, ⟨hw, fun _ => by simp; omega, fun _ => hl, hd⟩⟩
  case discard =>
    have he := he (by simp [hg])
    have hv1 : t.verts = 1 := by cases t <;> simp_all [Topology.group, Topology.verts]
    exact ⟨⟨by simp; omega, by simp; omega, hi⟩, ⟨hw, fun _ => by simp; omega, fun h => by simp [hg] at h, hd⟩⟩
  case strip =>
    have he := he (by simp [hg])
    exact ⟨⟨by simp; omega, Nat.le_of_lt hn, hi⟩, ⟨hw, fun _ => by simp; omega, fun h => by simp [hg] at h, hd⟩⟩
  case fan =>
    have hf := hf hg
    exact ⟨⟨by omega, Nat.le_of_lt hn, hi⟩, ⟨hw, fun h => absurd hg h, fun h => by simp [hg] at h, hd⟩⟩

theorem emitRun_ok {t : Topology} {q : VertexQueue} {n step : Nat} (hi : ∀ i ∈ q.ibuf, i < q.next)
    (hn : q.next ≤ q.head + n) (hw : q.ibuf.length % n = 0) (hv : t.verts = n) (he : q.vbuf.length = q.head + n)
    (hs : 0 < step) (hsn : step ≤ n) (hl : t.group = .list → step = n) (hd : t.group ≠ .discard) :
    (q.emitRun n step).CursorsOk ∧ (q.emitRun n step).Between t := by
  refine ⟨⟨by simp [VertexQueue.emitRun]; omega, by simp [VertexQueue.emitRun]; omega, ?_⟩,
    ⟨by simp [VertexQueue.emitRun, hv, hw], fun _ => by simp [VertexQueue.emitRun]; omega, fun h => by
      have := hl h; simp only [VertexQueue.emitRun]; omega, fun h => absurd h hd⟩⟩
  intro i h
  simp only [VertexQueue.emitRun, List.mem_append, List.mem_range'_1] at h ⊢
  rcases h with h | h
  · have := hi i h; omega
  · omega

theorem compact_length {q : VertexQueue} {n : Nat} (hn : q.next < q.vbuf.length) (he : q.vbuf.length = q.head + n) :
    (q.compact n).vbuf.length = (q.compact n).head + n := by
  unfold VertexQueue.compact
  split
  · simp; omega
  · exact he

theorem compact_next (q : VertexQueue) (n : Nat) : (q.compact n).next = q.next := by unfold VertexQueue.compact; split <;> rfl
theorem compact_ibuf (q : VertexQueue) (n : Nat) : (q.compact n).ibuf = q.ibuf := by unfold VertexQueue.compact; split <;> rfl

theorem compact_next_le {q : VertexQueue} {n : Nat} (hn : q.next < q.vbuf.length) (he : q.vbuf.length = q.head + n) :
    (q.compact n).next ≤ (q.compact n).head + n := by
  unfold VertexQueue.compact
  split
  · exact Nat.le_add_right _ _
  · omega

theorem strip_accept_ok {t : Topology} {q : VertexQueue} {n : Nat} (h : q.Complete t) (hv : t.verts = n) (hg : t.group = .strip)
    (hp : 1 ≤ n) : ((q.compact n).emitRun n 1).CursorsOk ∧ ((q.compact n).emitRun n 1).Between t := by
  have he : q.vbuf.length = q.head + n := hv ▸ h.exact (by simp [hg])
  refine emitRun_ok ?_ ?_ ?_ hv (compact_length h.next_lt he) (by decide) hp (fun hl => by simp [hg] at hl) (by simp [hg])
  · rw [compact_ibuf, compact_next]; exact h.index_lt
  · exact compact_next_le h.next_lt he
  · rw [compact_ibuf, ← hv]; exact h.whole

theorem accept_ok {t : Topology} {q : VertexQueue} (h : q.Complete t) (hi : t ≠ .invalid) :
    (q.accept t).CursorsOk ∧ (q.accept t).Between t := by
  cases t
  case invalid => exact absurd rfl hi
  case lineStrip => exact strip_accept_ok h rfl rfl (by decide)
  case triangleStrip => exact strip_accept_ok h rfl rfl (by decide)
  case triangleFan =>
    have hf := h.fan rfl
    have hw := h.whole
    have hn := h.next_lt
    simp only [Topology.verts] at hf hw
    refine ⟨⟨by simp [VertexQueue.accept]; omega, Nat.le_refl _, ?_⟩,
      ⟨by simp [VertexQueue.accept, Topology.verts, hw], fun h => absurd rfl h, fun h => by simp [Topology.group] at h,
        fun h => by simp [Topology.group] at h⟩⟩
    intro i hm
    simp only [VertexQueue.accept, List.mem_append, List.mem_cons, List.not_mem_nil, or_false] at hm ⊢
    rcases hm with hm | hm | hm | hm
    · have := h.index_lt i hm; omega
    all_goals omega
  all_goals
    have he := h.exact (by decide)
    have hw := h.whole
    have hn := h.next_lt
    have hl := h.listNext rfl
    simp only [Topology.verts] at he hw
    exact emitRun_ok h.index_lt (by omega) hw rfl he (by decide) (by decide) (fun _ => rfl) (by decide)

/-! ## Restart (41_register_dispatch R230) -/

theorem restart_cursorsOk {q : VertexQueue} (h : q.CursorsOk) : q.restart.CursorsOk := by
  unfold VertexQueue.restart
  split
  · next hn => exact ⟨Nat.le_refl _, Nat.le_refl _, by simp [hn]⟩
  · have := h.next_le
    exact ⟨by simp; omega, by simp; omega, h.index_lt⟩

theorem restart_between {t : Topology} {q : VertexQueue} (hw : q.ibuf.length % t.verts = 0)
    (hd : t.group = .discard → q.ibuf = []) : q.restart.Between t := by
  have hv := verts_pos t
  unfold VertexQueue.restart
  split
  · exact ⟨hw, fun _ => by simp; omega, fun _ => Nat.le_refl _, hd⟩
  · exact ⟨hw, fun _ => by simp; omega, fun _ => Nat.le_refl _, hd⟩

/-! ## The kick's append -/

/-- One more vertex completes a primitive, or leaves the queue as it is between kicks. -/
theorem append_ok {t : Topology} {q : VertexQueue} (hc : q.CursorsOk) (hb : q.Between t) (v : Vertex) :
    (q.append v).CursorsOk ∧ ((q.append v).live < t.verts → (q.append v).Between t) ∧
      (¬ (q.append v).live < t.verts → (q.append v).Complete t) := by
  obtain ⟨h1, h2, h3⟩ := hc
  obtain ⟨hw, hp, hl, hd⟩ := hb
  refine ⟨⟨by simp [VertexQueue.append]; omega, by simp [VertexQueue.append]; omega, h3⟩, fun h => ⟨hw, fun _ => h, hl, hd⟩, fun h => ?_⟩
  simp only [VertexQueue.live, VertexQueue.append, List.length_append, List.length_singleton] at h
  refine ⟨h3, by simp [VertexQueue.append]; omega, hw, fun hg => ?_, fun _ => by simp [VertexQueue.append]; omega, hl, hd⟩
  have := hp hg
  simp [VertexQueue.append]; omega

end Sys2Proof.Machine
end

