-- ==== Sys2Proof/Laws/Kick.lean ====
section
/-! SUPPORT. What a flush and a kick can do, said once (43_flush_draw R340, R345; 42_vertex_kick R302, R314), and the invariants both
keep. -/

namespace Sys2Proof.Machine

/-! ## Flush -/

theorem flush_of_not_pending {s : State} (h : s.pending = false) : flush s = s := by simp [flush, h]

theorem flush_of_pending {s : State} (h : s.pending = true) : flush s = drawPending s := by simp [flush, h]

theorem pending_iff (s : State) : s.pending = true ↔ s.vq.ibuf ≠ [] := by simp [State.pending]

theorem flush_vq (s : State) : (flush s).vq = if s.pending then carryForward s.topology s.vq else s.vq := by
  unfold flush; split <;> rfl

theorem flush_mem (s : State) : (flush s).mem = if s.pending then rendererMem s else s.mem := by
  unfold flush; split <;> rfl

theorem flush_out (s : State) : (flush s).out = s.out ++ (if s.pending then drawEvents s else []) := by
  unfold flush; split <;> simp [drawPending]

/-- After a flush nothing is pending. -/
theorem flush_not_pending (s : State) : (flush s).pending = false := by
  unfold flush
  split
  · simp [State.pending, drawPending, carryForward]
  · next h => simpa using h

theorem flush_cursorsOk {s : State} (h : s.vq.CursorsOk) : (flush s).vq.CursorsOk := by
  rw [flush_vq]; split
  · exact carryForward_cursorsOk _ _
  · exact h

theorem flush_between {s : State} (h : s.vq.Between s.topology) : (flush s).vq.Between s.topology := by
  rw [flush_vq]; split
  · exact carryForward_between h
  · exact h

theorem flush_wf {s : State} (h : s.mem.wf = true) : (flush s).mem.wf = true := by
  rw [flush_mem]; split
  · unfold rendererMem; split
    · rfl
    · exact wf_storeAll h _
  · exact h

/-! ## The kick -/

/-- The ways a kick can go, each with its state: p is the state after the append and the window entry (42_vertex_kick R302, R310,
R311). -/
inductive KickCase (skip : Bool) (s p : State) : State → Prop where
  | full : exceeds s.cfg.vbufMax (s.vq.vbuf.length + 1) = true → KickCase skip s p (raise .bufferExhausted s)
  | few : exceeds s.cfg.vbufMax (s.vq.vbuf.length + 1) = false → p.vq.live < s.topology.verts → KickCase skip s p p
  | rejected : exceeds s.cfg.vbufMax (s.vq.vbuf.length + 1) = false → ¬ p.vq.live < s.topology.verts →
      (skip || reject p s.topology p.vq.live) = true → KickCase skip s p { p with vq := p.vq.reject s.topology }
  | indexFull : exceeds s.cfg.vbufMax (s.vq.vbuf.length + 1) = false → ¬ p.vq.live < s.topology.verts →
      (skip || reject p s.topology p.vq.live) = false →
      exceeds s.cfg.ibufMax (s.vq.ibuf.length + s.topology.verts) = true → KickCase skip s p (raise .bufferExhausted p)
  | accepted : exceeds s.cfg.vbufMax (s.vq.vbuf.length + 1) = false → ¬ p.vq.live < s.topology.verts →
      (skip || reject p s.topology p.vq.live) = false →
      exceeds s.cfg.ibufMax (s.vq.ibuf.length + s.topology.verts) = false →
      (s.cfg.autoFlush && hazard s) = false → KickCase skip s p { p with vq := p.vq.accept s.topology }
  | hazard : exceeds s.cfg.vbufMax (s.vq.vbuf.length + 1) = false → ¬ p.vq.live < s.topology.verts →
      (skip || reject p s.topology p.vq.live) = false →
      exceeds s.cfg.ibufMax (s.vq.ibuf.length + s.topology.verts) = false →
      (s.cfg.autoFlush && hazard s) = true → KickCase skip s p (flush { p with vq := p.vq.accept s.topology })

theorem resolve_cases {skip : Bool} {s p : State} (ht : p.topology = s.topology) (hh : hazard p = hazard s) (hc : p.cfg = s.cfg)
    (hi : p.vq.ibuf = s.vq.ibuf) (h1 : exceeds s.cfg.vbufMax (s.vq.vbuf.length + 1) = false)
    (h2 : ¬ p.vq.live < s.topology.verts) : KickCase skip s p (resolvePrimitive skip p) := by
  unfold resolvePrimitive
  rw [ht, hh, hi]
  split
  · next h => exact .rejected h1 h2 h
  · next h =>
    have h := Bool.eq_false_iff.mpr h
    split
    · next h3 => exact .indexFull h1 h2 h (hc ▸ h3)
    · next h3 =>
      have h3 : exceeds s.cfg.ibufMax (s.vq.ibuf.length + s.topology.verts) = false := hc ▸ Bool.eq_false_iff.mpr h3
      split
      · next h4 => exact .hazard h1 h2 h h3 (hc ▸ h4)
      · next h4 => exact .accepted h1 h2 h h3 (hc ▸ Bool.eq_false_iff.mpr h4)

theorem kick_cases (x y : BitVec 16) (z : BitVec 32) (skip : Bool) (s : State) :
    KickCase skip s (pushVertex x y z s) (kick x y z skip s) := by
  have ht : (pushVertex x y z s).topology = s.topology := topology_congr rfl rfl
  unfold kick
  split
  · next h => exact .full h
  · next h =>
    have h := Bool.eq_false_iff.mpr h
    split
    · next h2 => exact .few h (ht ▸ h2)
    · next h2 => exact resolve_cases ht rfl rfl rfl h (ht ▸ h2)

/-- A type 7 kick under `discard` is never accepted (42_vertex_kick R300). -/
theorem accept_not_invalid {p : State} {skip : Bool} {t : Topology} {m : Nat} (h : (skip || reject p t m) = false) : t ≠ .invalid := by
  rintro rfl
  simp [reject] at h

/-- A kick keeps the cursors in order, and leaves the queue as it is between kicks unless it faults. -/
theorem kick_queue {s : State} (x y : BitVec 16) (z : BitVec 32) (skip : Bool) (hc : s.vq.CursorsOk) (hb : s.vq.Between s.topology) :
    (kick x y z skip s).vq.CursorsOk ∧
      ((kick x y z skip s).fault = s.fault → s.fault = none → (kick x y z skip s).vq.Between s.topology) := by
  obtain ⟨ha, hf, hx⟩ := append_ok hc hb ⟨x, y, z, s.vacc⟩
  have hk := kick_cases x y z skip s
  generalize hp : pushVertex x y z s = p at hk
  have hv : p.vq = s.vq.append ⟨x, y, z, s.vacc⟩ := by rw [← hp]; rfl
  rw [← hv] at ha hf hx
  generalize kick x y z skip s = t at hk ⊢
  cases hk with
  | full h => exact ⟨hc, fun _ _ => hb⟩
  | few h h2 => exact ⟨ha, fun _ _ => hf h2⟩
  | rejected h h2 h3 => exact ⟨(reject_ok (hx h2)).1, fun _ _ => (reject_ok (hx h2)).2⟩
  | indexFull h h2 h3 h4 => exact ⟨ha, fun e e0 => by simp [e0] at e⟩
  | accepted h h2 h3 h4 h5 =>
    have := accept_ok (hx h2) (accept_not_invalid h3)
    exact ⟨this.1, fun _ _ => this.2⟩
  | hazard h h2 h3 h4 h5 =>
    have := accept_ok (hx h2) (accept_not_invalid h3)
    have ht : State.topology { p with vq := p.vq.accept s.topology } = s.topology := by rw [← hp]; exact topology_congr rfl rfl
    refine ⟨flush_cursorsOk this.1, fun _ _ => ?_⟩
    have hb := flush_between (s := { p with vq := p.vq.accept s.topology }) (by rw [ht]; exact this.2)
    rwa [ht] at hb

/-- A relation that every way of a kick meets is met by the kick. -/
theorem kick_rel {P : State → State → Prop} {s : State} (x y : BitVec 16) (z : BitVec 32) (skip : Bool)
    (hraise : P s (raise .bufferExhausted s)) (hraise2 : P s (raise .bufferExhausted (pushVertex x y z s)))
    (hq : ∀ q, P s { pushVertex x y z s with vq := q }) (hf : ∀ q, P s (flush { pushVertex x y z s with vq := q })) :
    P s (kick x y z skip s) := by
  have hk := kick_cases x y z skip s
  generalize kick x y z skip s = t at hk ⊢
  cases hk with
  | full h => exact hraise
  | few h h2 => exact hq (pushVertex x y z s).vq
  | rejected h h2 h3 => exact hq _
  | indexFull h h2 h3 h4 => exact hraise2
  | accepted h h2 h3 h4 h5 => exact hq _
  | hazard h h2 h3 h4 h5 => exact hf _

theorem kick_wf {s : State} (x y : BitVec 16) (z : BitVec 32) (skip : Bool) (h : s.mem.wf = true) :
    (kick x y z skip s).mem.wf = true :=
  kick_rel (P := fun _ t => t.mem.wf = true) x y z skip h h (fun _ => h) (fun _ => flush_wf h)

@[simp] theorem kick_path0 (s : State) (x y : BitVec 16) (z : BitVec 32) (skip : Bool) : (kick x y z skip s).path0 = s.path0 :=
  kick_rel (P := fun a b => b.path0 = a.path0) x y z skip rfl rfl (fun _ => rfl) (fun _ => by rw [flush_path0]; rfl)

@[simp] theorem kick_path1 (s : State) (x y : BitVec 16) (z : BitVec 32) (skip : Bool) : (kick x y z skip s).path1 = s.path1 :=
  kick_rel (P := fun a b => b.path1 = a.path1) x y z skip rfl rfl (fun _ => rfl) (fun _ => by rw [flush_path1]; rfl)

@[simp] theorem kick_path2 (s : State) (x y : BitVec 16) (z : BitVec 32) (skip : Bool) : (kick x y z skip s).path2 = s.path2 :=
  kick_rel (P := fun a b => b.path2 = a.path2) x y z skip rfl rfl (fun _ => rfl) (fun _ => by rw [flush_path2]; rfl)

@[simp] theorem kick_path3 (s : State) (x y : BitVec 16) (z : BitVec 32) (skip : Bool) : (kick x y z skip s).path3 = s.path3 :=
  kick_rel (P := fun a b => b.path3 = a.path3) x y z skip rfl rfl (fun _ => rfl) (fun _ => by rw [flush_path3]; rfl)

@[simp] theorem kick_env (s : State) (x y : BitVec 16) (z : BitVec 32) (skip : Bool) : (kick x y z skip s).env = s.env :=
  kick_rel (P := fun a b => b.env = a.env) x y z skip rfl rfl (fun _ => rfl) (fun _ => by rw [flush_env]; rfl)

@[simp] theorem kick_ctx0 (s : State) (x y : BitVec 16) (z : BitVec 32) (skip : Bool) : (kick x y z skip s).ctx0 = s.ctx0 :=
  kick_rel (P := fun a b => b.ctx0 = a.ctx0) x y z skip rfl rfl (fun _ => rfl) (fun _ => by rw [flush_ctx0]; rfl)

@[simp] theorem kick_ctx1 (s : State) (x y : BitVec 16) (z : BitVec 32) (skip : Bool) : (kick x y z skip s).ctx1 = s.ctx1 :=
  kick_rel (P := fun a b => b.ctx1 = a.ctx1) x y z skip rfl rfl (fun _ => rfl) (fun _ => by rw [flush_ctx1]; rfl)

@[simp] theorem kick_vacc (s : State) (x y : BitVec 16) (z : BitVec 32) (skip : Bool) : (kick x y z skip s).vacc = s.vacc :=
  kick_rel (P := fun a b => b.vacc = a.vacc) x y z skip rfl rfl (fun _ => rfl) (fun _ => by rw [flush_vacc]; rfl)

@[simp] theorem kick_qint (s : State) (x y : BitVec 16) (z : BitVec 32) (skip : Bool) : (kick x y z skip s).qint = s.qint :=
  kick_rel (P := fun a b => b.qint = a.qint) x y z skip rfl rfl (fun _ => rfl) (fun _ => by rw [flush_qint]; rfl)

@[simp] theorem kick_xfer (s : State) (x y : BitVec 16) (z : BitVec 32) (skip : Bool) : (kick x y z skip s).xfer = s.xfer :=
  kick_rel (P := fun a b => b.xfer = a.xfer) x y z skip rfl rfl (fun _ => rfl) (fun _ => by rw [flush_xfer]; rfl)

@[simp] theorem kick_refused (s : State) (x y : BitVec 16) (z : BitVec 32) (skip : Bool) : (kick x y z skip s).refused = s.refused :=
  kick_rel (P := fun a b => b.refused = a.refused) x y z skip rfl rfl (fun _ => rfl) (fun _ => by rw [flush_refused]; rfl)

@[simp] theorem kick_cfg (s : State) (x y : BitVec 16) (z : BitVec 32) (skip : Bool) : (kick x y z skip s).cfg = s.cfg :=
  kick_rel (P := fun a b => b.cfg = a.cfg) x y z skip rfl rfl (fun _ => rfl) (fun _ => by rw [flush_cfg]; rfl)

@[simp] theorem kick_calls (s : State) (x y : BitVec 16) (z : BitVec 32) (skip : Bool) : (kick x y z skip s).calls = s.calls :=
  kick_rel (P := fun a b => b.calls = a.calls) x y z skip rfl rfl (fun _ => rfl) (fun _ => by rw [flush_calls]; rfl)

@[simp] theorem kick_blobs (s : State) (x y : BitVec 16) (z : BitVec 32) (skip : Bool) : (kick x y z skip s).blobs = s.blobs :=
  kick_rel (P := fun a b => b.blobs = a.blobs) x y z skip rfl rfl (fun _ => rfl) (fun _ => by rw [flush_blobs]; rfl)

@[simp] theorem kick_topology (s : State) (x y : BitVec 16) (z : BitVec 32) (skip : Bool) : (kick x y z skip s).topology = s.topology :=
  topology_congr (by simp) (by simp)

end Sys2Proof.Machine
end

