-- ==== Sys2Proof/Laws/Transfer.lean ====
section
/-! SUPPORT. What the transfer engine can do to the state, said once (44_transfer), and the invariants it keeps. -/

namespace Sys2Proof.Machine

/-- The steps the engine is made of: a flush, an update of its own fields, a change of local memory that keeps its canonical form, an
event, a free value. -/
inductive XferReach (s : State) : State → Prop where
  | refl : XferReach s s
  | flush {t : State} : XferReach s t → XferReach s (flush t)
  | xfer {t : State} (x : Xfer) : XferReach s t → XferReach s { t with xfer := x }
  | store {t : State} (m : Memory) : (t.mem.wf = true → m.wf = true) → XferReach s t → XferReach s { t with mem := m }
  | emit {t : State} (e : Event) : XferReach s t → XferReach s (emit e t)
  | free {t : State} (n : Nat) : XferReach s t → XferReach s { t with freeCount := n }

theorem XferReach.trans {s t u : State} (h : XferReach s t) (h' : XferReach t u) : XferReach s u := by
  induction h' with
  | refl => exact h
  | flush _ ih => exact .flush ih
  | xfer x _ ih => exact .xfer x ih
  | store m hm _ ih => exact .store m hm ih
  | emit e _ ih => exact .emit e ih
  | free n _ ih => exact .free n ih

/-! ## The parts of the engine -/

theorem commitPixel_reach (v : BitVec 32) (s : State) : XferReach s (commitPixel v s) := by
  unfold commitPixel
  split
  · exact .refl
  · exact .xfer _ (.store _ (fun h => wf_writePixel h _ _ _ _ _ _) (.flush .refl))

theorem commitLoop_reach (k : Nat) (s : State) (b : Bool) : XferReach s (commitLoop k (s, b)).1 := by
  induction k generalizing s b with
  | zero => exact .refl
  | succ k ih =>
    unfold commitLoop
    split
    · exact ((commitPixel_reach _ s).xfer _).trans (ih _ _)
    · exact .refl

theorem dropByte_reach (s : State) : XferReach s (dropByte s) := by
  unfold dropByte
  split
  · exact .refl
  · exact .emit _ (.xfer _ .refl)

theorem xferByte_reach (sw : State × Bool) (b : Byte) : XferReach sw.1 (xferByte sw b).1 := by
  unfold xferByte
  split
  · exact .xfer _ (.trans (.xfer _ .refl) (commitLoop_reach _ _ _))
  · exact dropByte_reach _

theorem xferBytes_reach (bs : List Byte) (sw : State × Bool) : XferReach sw.1 (bs.foldl xferByte sw).1 := by
  induction bs generalizing sw with
  | nil => exact .refl
  | cons b t ih => exact (xferByte_reach sw b).trans (ih _)

theorem xferData_reach (bs : List Byte) (s : State) : XferReach s (xferData bs s) := by
  unfold xferData
  dsimp only
  split
  · exact .emit _ (xferBytes_reach bs (s, false))
  · exact xferBytes_reach bs (s, false)

theorem move_reach (s : State) : XferReach s (move s) :=
  .emit _ (.store _ (fun h => wf_movedMem h _ _) (.emit _ (.flush .refl)))

theorem transferStart_reach (x : BitVec 2) (s : State) : XferReach s (transferStart x s) := by
  unfold transferStart
  split
  · exact .xfer _ .refl
  · exact .emit _ (.xfer _ .refl)
  · exact .trans (.xfer _ .refl) (move_reach _)
  · exact .xfer _ .refl

theorem fetchPixel_reach (s : State) : XferReach s (fetchPixel s) := .xfer _ (.flush .refl)

theorem fillLoop_reach (k : Nat) (s : State) : XferReach s (fillLoop k s) := by
  induction k generalizing s with
  | zero => exact .refl
  | succ k ih =>
    unfold fillLoop
    split
    · split
      · exact (fetchPixel_reach s).trans (ih _)
      · exact .trans (.xfer _ .refl) (ih _)
    · exact .refl

theorem readByte_reach (s : State) : XferReach s (readByte s).1 := by
  unfold readByte
  split
  · exact .xfer _ (fillLoop_reach 8 s)
  · exact .free _ .refl

theorem readBytes_reach (n : Nat) (s : State) : XferReach s (readBytes n s).1 := by
  induction n generalizing s with
  | zero => exact .refl
  | succ n ih => exact (readByte_reach s).trans (ih _)

theorem readFIFO_reach (n : Nat) (s : State) : XferReach s (readFIFO n s) := .emit _ (readBytes_reach _ s)

/-! ## What the engine leaves alone -/

theorem XferReach.path0 {s t : State} (h : XferReach s t) : t.path0 = s.path0 := by
  induction h with
  | refl => rfl
  | flush _ ih => rw [flush_path0, ih]
  | _ => assumption

theorem XferReach.path1 {s t : State} (h : XferReach s t) : t.path1 = s.path1 := by
  induction h with
  | refl => rfl
  | flush _ ih => rw [flush_path1, ih]
  | _ => assumption

theorem XferReach.path2 {s t : State} (h : XferReach s t) : t.path2 = s.path2 := by
  induction h with
  | refl => rfl
  | flush _ ih => rw [flush_path2, ih]
  | _ => assumption

theorem XferReach.path3 {s t : State} (h : XferReach s t) : t.path3 = s.path3 := by
  induction h with
  | refl => rfl
  | flush _ ih => rw [flush_path3, ih]
  | _ => assumption

theorem XferReach.env {s t : State} (h : XferReach s t) : t.env = s.env := by
  induction h with
  | refl => rfl
  | flush _ ih => rw [flush_env, ih]
  | _ => assumption

theorem XferReach.ctx0 {s t : State} (h : XferReach s t) : t.ctx0 = s.ctx0 := by
  induction h with
  | refl => rfl
  | flush _ ih => rw [flush_ctx0, ih]
  | _ => assumption

theorem XferReach.ctx1 {s t : State} (h : XferReach s t) : t.ctx1 = s.ctx1 := by
  induction h with
  | refl => rfl
  | flush _ ih => rw [flush_ctx1, ih]
  | _ => assumption

theorem XferReach.vacc {s t : State} (h : XferReach s t) : t.vacc = s.vacc := by
  induction h with
  | refl => rfl
  | flush _ ih => rw [flush_vacc, ih]
  | _ => assumption

theorem XferReach.qint {s t : State} (h : XferReach s t) : t.qint = s.qint := by
  induction h with
  | refl => rfl
  | flush _ ih => rw [flush_qint, ih]
  | _ => assumption

theorem XferReach.win {s t : State} (h : XferReach s t) : t.win = s.win := by
  induction h with
  | refl => rfl
  | flush _ ih => rw [flush_win, ih]
  | _ => assumption

theorem XferReach.fault {s t : State} (h : XferReach s t) : t.fault = s.fault := by
  induction h with
  | refl => rfl
  | flush _ ih => rw [flush_fault, ih]
  | _ => assumption

theorem XferReach.refused {s t : State} (h : XferReach s t) : t.refused = s.refused := by
  induction h with
  | refl => rfl
  | flush _ ih => rw [flush_refused, ih]
  | _ => assumption

theorem XferReach.cfg {s t : State} (h : XferReach s t) : t.cfg = s.cfg := by
  induction h with
  | refl => rfl
  | flush _ ih => rw [flush_cfg, ih]
  | _ => assumption

theorem XferReach.calls {s t : State} (h : XferReach s t) : t.calls = s.calls := by
  induction h with
  | refl => rfl
  | flush _ ih => rw [flush_calls, ih]
  | _ => assumption

theorem XferReach.feed {s t : State} (h : XferReach s t) : t.feed = s.feed := by
  induction h with
  | refl => rfl
  | flush _ ih => rw [flush_feed, ih]
  | _ => assumption

theorem XferReach.blobs {s t : State} (h : XferReach s t) : t.blobs = s.blobs := by
  induction h with
  | refl => rfl
  | flush _ ih => rw [flush_blobs, ih]
  | _ => assumption

theorem XferReach.topology {s t : State} (h : XferReach s t) : t.topology = s.topology := topology_congr h.env h.cfg

theorem XferReach.wf {s t : State} (h : XferReach s t) (hm : s.mem.wf = true) : t.mem.wf = true := by
  induction h with
  | refl => exact hm
  | flush _ ih => exact flush_wf ih
  | xfer x _ ih => exact ih
  | store m hw _ ih => exact hw ih
  | emit e _ ih => exact ih
  | free n _ ih => exact ih

theorem XferReach.cursorsOk {s t : State} (h : XferReach s t) (hc : s.vq.CursorsOk) : t.vq.CursorsOk := by
  induction h with
  | refl => exact hc
  | flush _ ih => exact flush_cursorsOk ih
  | xfer x _ ih => exact ih
  | store m hw _ ih => exact ih
  | emit e _ ih => exact ih
  | free n _ ih => exact ih

theorem XferReach.between {s t : State} (h : XferReach s t) (hb : s.vq.Between s.topology) : t.vq.Between t.topology := by
  induction h with
  | refl => exact hb
  | flush _ ih => rw [flush_topology]; exact flush_between ih
  | xfer x _ ih => exact ih
  | store m hw _ ih => exact ih
  | emit e _ ih => exact ih
  | free n _ ih => exact ih

theorem XferReach.out_grows {s t : State} (h : XferReach s t) : ∃ es, t.out = s.out ++ es := by
  induction h with
  | refl => exact ⟨[], by simp⟩
  | flush _ ih => obtain ⟨es, h⟩ := ih; exact ⟨_, by rw [flush_out, h, List.append_assoc]⟩
  | xfer x _ ih => exact ih
  | store m hw _ ih => exact ih
  | emit e _ ih => obtain ⟨es, h⟩ := ih; exact ⟨_, by rw [emit_out, h, List.append_assoc]⟩
  | free n _ ih => exact ih

end Sys2Proof.Machine
end

