-- ==== Sys2Proof/Laws/Engine.lean ====
section
/-! SUPPORT. The engine's own fields stay in their ranges (10_state R47). -/

namespace Sys2Proof.Machine

/-! ## Pending bits -/

theorem or_shift_lt {n : Nat} {p : BitVec 39} {b : BitVec n} {k w : Nat} (hp : p.toNat < 2 ^ k) (hb : b.toNat < 2 ^ w) :
    (p ||| (b.setWidth 39 <<< k)).toNat < 2 ^ (k + w) := by
  rw [BitVec.toNat_or]
  refine Nat.or_lt_two_pow (Nat.lt_of_lt_of_le hp (Nat.pow_le_pow_right (by decide) (by omega))) ?_
  rw [BitVec.toNat_shiftLeft, Nat.shiftLeft_eq, BitVec.toNat_setWidth]
  refine Nat.lt_of_le_of_lt (Nat.mod_le _ _) ?_
  rw [Nat.add_comm, Nat.pow_add]
  exact Nat.mul_lt_mul_of_pos_right (Nat.lt_of_le_of_lt (Nat.mod_le _ _) hb) (Nat.two_pow_pos k)

theorem shift_lt {p : BitVec 39} {k n : Nat} (hp : p.toNat < 2 ^ k) (hn : n ≤ k) : (p >>> n).toNat < 2 ^ (k - n) := by
  rw [BitVec.toNat_ushiftRight, Nat.shiftRight_eq_div_pow]
  refine Nat.div_lt_of_lt_mul ?_
  rwa [← Nat.pow_add, Nat.add_sub_cancel' hn]

/-! ## The engine while armed -/

/-- The fields of an armed engine, but for the bound on its pending bits. -/
structure Xfer.Armed (x : Xfer) : Prop where
  w_ge : 1 ≤ x.w
  w_le : x.w ≤ 4095
  h_ge : 1 ≤ x.h
  h_le : x.h ≤ 4095
  cx_lt : x.cx < x.w
  cy_le : x.cy ≤ x.h
  done_le : x.done ≤ x.total
  total_le : x.total ≤ (x.w * x.h * x.bpp + 7) / 8
  bits : x.pbits.toNat < 2 ^ x.pcount

theorem Xfer.Ok.armed {x : Xfer} (h : x.Ok) (hm : x.mode ≠ .idle) : x.Armed := by
  have hs := h.size hm
  obtain ⟨h1, h2, h3, h4, h5, h6⟩ := h.range
  obtain hz | ⟨hw, hh, hx, hy⟩ := h3
  · omega
  · exact ⟨hw, h1, hh, h2, hx, hy, h5, h.count hm, h.bits⟩

theorem pixelBits_mem (psm : BitVec 6) : pixelBits psm ∈ [0, 4, 8, 16, 24, 32] := by
  rcases pixelBits_range psm with h | h | h | h | h <;> simp [h]

theorem Xfer.Armed.inRange {x : Xfer} (h : x.Armed) (hb : x.bpp ∈ [0, 4, 8, 16, 24, 32]) : x.InRange := by
  refine ⟨h.w_le, h.h_le, .inr ⟨h.w_ge, h.h_ge, h.cx_lt, h.cy_le⟩, hb, h.done_le, Nat.lt_of_le_of_lt h.total_le ?_⟩
  have hb : x.bpp ≤ 32 := by simp only [List.mem_cons, List.not_mem_nil, or_false] at hb; omega
  have := Nat.mul_le_mul (Nat.mul_le_mul h.w_le h.h_le) hb
  omega

theorem Xfer.Armed.writeOk {x : Xfer} (h : x.Armed) (hm : x.mode = .write) (hb : x.bpp = pixelBits (knownPsm (dpsm x.blit)))
    (hp : x.pcount < x.bpp) : x.Ok where
  range := h.inRange (hb ▸ pixelBits_mem _)
  idle e := by simp [hm] at e
  size _ := h.w_ge
  bppWrite _ := hb
  bppRead e := by simp [hm] at e
  count _ := h.total_le
  write _ := hp
  read e := by simp [hm] at e
  bits := h.bits

theorem Xfer.Armed.readOk {x : Xfer} (h : x.Armed) (hm : x.mode = .read) (hb : x.bpp = pixelBits (knownPsm (spsm x.blit)))
    (hp : x.pcount ≤ 31) : x.Ok where
  range := h.inRange (hb ▸ pixelBits_mem _)
  idle e := by simp [hm] at e
  size _ := h.w_ge
  bppWrite e := by simp [hm] at e
  bppRead _ := hb
  count _ := h.total_le
  write e := by simp [hm] at e
  read _ := hp
  bits := h.bits

/-- An idle engine with its fields in range and no pending bits is in order. -/
theorem idle_ok {x : Xfer} (hr : x.InRange) (hm : x.mode = .idle) (hb : x.pbits = 0) (hp : x.pcount = 0) : x.Ok where
  range := hr
  idle _ := ⟨hb, hp⟩
  size e := absurd hm e
  bppWrite e := by simp [hm] at e
  bppRead e := by simp [hm] at e
  count e := absurd hm e
  write e := by simp [hm] at e
  read e := by simp [hm] at e
  bits := by simp [hb, hp]

/-- The ranges do not look at the mode, the pending bits, the latched registers and the overflow flag. -/
theorem Xfer.InRange.congr {x y : Xfer} (h : x.InRange) (hw : y.w = x.w) (hh : y.h = x.h) (hx : y.cx = x.cx) (hy : y.cy = x.cy)
    (hb : y.bpp = x.bpp) (hd : y.done = x.done) (ht : y.total = x.total) : y.InRange := by
  obtain ⟨h1, h2, h3, h4, h5, h6⟩ := h
  exact ⟨hw ▸ h1, hh ▸ h2, by rw [hw, hh, hx, hy]; exact h3, hb ▸ h4, by rw [hd, ht]; exact h5, ht ▸ h6⟩

theorem finishIfDone_ok {x : Xfer} (h : x.Ok) : x.finishIfDone.Ok := by
  unfold Xfer.finishIfDone
  split
  · exact idle_ok (h.range.congr rfl rfl rfl rfl rfl rfl rfl) rfl rfl rfl
  · exact h

theorem advance_armed {x : Xfer} (h : x.Armed) (hc : x.cy < x.h) : x.advance.Armed := by
  obtain ⟨h1, h2, h3, h4, h5, h6, h7, h8, h9⟩ := h
  unfold Xfer.advance
  split
  · exact ⟨h1, h2, h3, h4, h1, hc, h7, h8, h9⟩
  · exact ⟨h1, h2, h3, h4, by dsimp only; omega, h6, h7, h8, h9⟩

theorem advance_mode (x : Xfer) : x.advance.mode = x.mode := by unfold Xfer.advance; split <;> rfl
theorem advance_bpp (x : Xfer) : x.advance.bpp = x.bpp := by unfold Xfer.advance; split <;> rfl
theorem advance_blit (x : Xfer) : x.advance.blit = x.blit := by unfold Xfer.advance; split <;> rfl
theorem advance_pos (x : Xfer) : x.advance.pos = x.pos := by unfold Xfer.advance; split <;> rfl
theorem advance_pcount (x : Xfer) : x.advance.pcount = x.pcount := by unfold Xfer.advance; split <;> rfl
theorem advance_h (x : Xfer) : x.advance.h = x.h := by unfold Xfer.advance; split <;> rfl
theorem advance_w (x : Xfer) : x.advance.w = x.w := by unfold Xfer.advance; split <;> rfl
theorem advance_pbits (x : Xfer) : x.advance.pbits = x.pbits := by unfold Xfer.advance; split <;> rfl
theorem advance_done (x : Xfer) : x.advance.done = x.done := by unfold Xfer.advance; split <;> rfl
theorem advance_total (x : Xfer) : x.advance.total = x.total := by unfold Xfer.advance; split <;> rfl
theorem advance_overflow (x : Xfer) : x.advance.overflow = x.overflow := by unfold Xfer.advance; split <;> rfl

/-- Committing a pixel moves the cursor and nothing else of the engine. -/
theorem commitPixel_xfer (v : BitVec 32) (s : State) :
    (commitPixel v s).xfer = if s.xfer.h ≤ s.xfer.cy then s.xfer else s.xfer.advance := by
  unfold commitPixel; split <;> rfl

/-- The fields of an engine that stay while its pending bits are committed. -/
structure Xfer.SameShape (x y : Xfer) : Prop where
  mode : y.mode = x.mode
  bpp : y.bpp = x.bpp
  blit : y.blit = x.blit
  pos : y.pos = x.pos

theorem commitLoop_armed (k : Nat) (s : State) (b : Bool) (h : s.xfer.Armed) (hb : 1 ≤ s.xfer.bpp) (hk : s.xfer.pcount ≤ k) :
    (commitLoop k (s, b)).1.xfer.Armed ∧ (commitLoop k (s, b)).1.xfer.pcount < s.xfer.bpp ∧
      s.xfer.SameShape (commitLoop k (s, b)).1.xfer := by
  induction k generalizing s b with
  | zero => exact ⟨h, by simp only [commitLoop]; omega, rfl, rfl, rfl, rfl⟩
  | succ k ih =>
    unfold commitLoop
    split
    · next hc =>
      dsimp only
      have key : ∀ x : Xfer, x.Armed → x.pcount = s.xfer.pcount → (x.dropBits s.xfer.bpp).Armed := by
        intro x hx hp
        obtain ⟨h1, h2, h3, h4, h5, h6, h7, h8, h9⟩ := hx
        exact ⟨h1, h2, h3, h4, h5, h6, h7, h8, shift_lt h9 (hp ▸ hc.2)⟩
      have hx : (commitPixel s.xfer.pixelValue s).xfer = s.xfer ∨
          ((commitPixel s.xfer.pixelValue s).xfer = s.xfer.advance ∧ s.xfer.cy < s.xfer.h) := by
        rw [commitPixel_xfer]
        split
        · exact .inl rfl
        · next hh => exact .inr ⟨rfl, by omega⟩
      rcases hx with hx | ⟨hx, hh⟩
      · have := ih { commitPixel s.xfer.pixelValue s with xfer := (commitPixel s.xfer.pixelValue s).xfer.dropBits s.xfer.bpp } true
          (by simpa only [hx] using key _ h rfl) (by simpa only [hx, Xfer.dropBits] using hb)
          (by simp only [hx, Xfer.dropBits]; omega)
        simp only [hx] at this ⊢
        exact ⟨this.1, this.2.1, this.2.2.mode, this.2.2.bpp, this.2.2.blit, this.2.2.pos⟩
      · have := ih { commitPixel s.xfer.pixelValue s with xfer := (commitPixel s.xfer.pixelValue s).xfer.dropBits s.xfer.bpp } true
          (by simpa only [hx] using key _ (advance_armed h hh) (advance_pcount _))
          (by simpa only [hx, Xfer.dropBits, advance_bpp] using hb)
          (by simp only [hx, Xfer.dropBits, advance_pcount]; omega)
        simp only [hx] at this ⊢
        refine ⟨this.1, ?_, ?_, ?_, ?_, ?_⟩
        · have e : (s.xfer.advance.dropBits s.xfer.bpp).bpp = s.xfer.bpp := advance_bpp _
          rw [e] at this; exact this.2.1
        · rw [this.2.2.mode, Xfer.dropBits, advance_mode]
        · rw [this.2.2.bpp, Xfer.dropBits, advance_bpp]
        · rw [this.2.2.blit, Xfer.dropBits, advance_blit]
        · rw [this.2.2.pos, Xfer.dropBits, advance_pos]
    · next hc => exact ⟨h, by dsimp only; omega, rfl, rfl, rfl, rfl⟩

/-! ## Transfer data -/

theorem bpp_range {x : Xfer} (h : x.Ok) (hm : x.mode ≠ .idle) : 4 ≤ x.bpp ∧ x.bpp ≤ 32 := by
  have : x.bpp = pixelBits (knownPsm (dpsm x.blit)) ∨ x.bpp = pixelBits (knownPsm (spsm x.blit)) := by
    cases e : x.mode
    · exact absurd e hm
    · exact .inl (h.bppWrite e)
    · exact .inr (h.bppRead e)
  rcases this with e | e <;> rw [e] <;> rcases pixelBits_range (knownPsm _) with h | h | h | h | h <;> rw [h] <;> decide

/-- An engine whose rows differ from an in-order one only in the overflow flag is in order. -/
theorem overflow_ok {x : Xfer} (h : x.Ok) (b : Bool) : Xfer.Ok { x with overflow := b } :=
  ⟨h.range.congr rfl rfl rfl rfl rfl rfl rfl, h.idle, h.size, h.bppWrite, h.bppRead, h.count, h.write, h.read, h.bits⟩

theorem dropByte_ok {s : State} (h : s.xfer.Ok) : (dropByte s).xfer.Ok := by
  unfold dropByte
  split
  · exact h
  · exact overflow_ok h true

theorem takeByte_armed {x : Xfer} (h : x.Ok) (ht : x.takesByte = true) (b : Byte) : (x.takeByte b).Armed := by
  simp only [Xfer.takesByte, Bool.and_eq_true, beq_iff_eq, decide_eq_true_eq] at ht
  have hi : x.mode ≠ .idle := by simp [ht.1]
  have hr := bpp_range h hi
  have hw := h.write ht.1
  obtain ⟨h1, h2, h3, h4, h5, h6, h7, h8, h9⟩ := h.armed hi
  exact ⟨h1, h2, h3, h4, h5, h6, ht.2, h8, or_shift_lt h9 b.isLt⟩

theorem xferByte_ok {sw : State × Bool} (h : sw.1.xfer.Ok) (b : Byte) :
    (xferByte sw b).1.xfer.Ok ∧ (xferByte sw b).1.xfer.blit = sw.1.xfer.blit ∧ (xferByte sw b).1.xfer.pos = sw.1.xfer.pos := by
  unfold xferByte
  split
  · next ht =>
    have ha := takeByte_armed h ht b
    simp only [Xfer.takesByte, Bool.and_eq_true, beq_iff_eq, decide_eq_true_eq] at ht
    have hi : sw.1.xfer.mode ≠ .idle := by simp [ht.1]
    have hr := bpp_range h hi
    have hl := commitLoop_armed (sw.1.xfer.pcount + 8) { sw.1 with xfer := sw.1.xfer.takeByte b } sw.2 ha
      (by simp only [Xfer.takeByte]; omega) (Nat.le_refl _)
    dsimp only at hl ⊢
    generalize commitLoop (sw.1.xfer.pcount + 8) ({ sw.1 with xfer := sw.1.xfer.takeByte b }, sw.2) = r at hl ⊢
    have hmode : r.1.xfer.mode = .write := by rw [hl.2.2.mode]; exact ht.1
    have hblit : r.1.xfer.blit = sw.1.xfer.blit := hl.2.2.blit
    have hpos : r.1.xfer.pos = sw.1.xfer.pos := hl.2.2.pos
    have hbpp : r.1.xfer.bpp = sw.1.xfer.bpp := hl.2.2.bpp
    have hok : r.1.xfer.Ok := hl.1.writeOk hmode (by rw [hbpp, hblit]; exact h.bppWrite ht.1) (by rw [hbpp]; exact hl.2.1)
    refine ⟨finishIfDone_ok hok, ?_, ?_⟩ <;> unfold Xfer.finishIfDone <;> split <;> simp only [Xfer.finish, hblit, hpos]
  · refine ⟨dropByte_ok h, ?_, ?_⟩ <;> unfold dropByte <;> split <;> rfl

theorem xferBytes_ok {sw : State × Bool} (bs : List Byte) (h : sw.1.xfer.Ok) :
    (bs.foldl xferByte sw).1.xfer.Ok ∧ (bs.foldl xferByte sw).1.xfer.blit = sw.1.xfer.blit ∧
      (bs.foldl xferByte sw).1.xfer.pos = sw.1.xfer.pos := by
  induction bs generalizing sw with
  | nil => exact ⟨h, rfl, rfl⟩
  | cons b t ih =>
    have hb := xferByte_ok h b
    have := ih hb.1
    exact ⟨this.1, this.2.1.trans hb.2.1, this.2.2.trans hb.2.2⟩

theorem xferData_ok {s : State} (bs : List Byte) (h : s.xfer.Ok) :
    (xferData bs s).xfer.Ok ∧ (xferData bs s).xfer.blit = s.xfer.blit ∧ (xferData bs s).xfer.pos = s.xfer.pos := by
  have := xferBytes_ok (sw := (s, false)) bs h
  unfold xferData
  dsimp only
  split <;> exact this

/-! ## Starting, and Move -/

theorem latch_size (x : Xfer) (e : Env) : 1 ≤ (x.latch e).w ∧ (x.latch e).w ≤ 4095 ∧ 1 ≤ (x.latch e).h ∧ (x.latch e).h ≤ 4095 := by
  have h1 : rrw e.trxreg < 4096 := (bits e.trxreg 0 12).isLt
  have h2 : rrh e.trxreg < 4096 := (bits e.trxreg 32 12).isLt
  simp only [Xfer.latch]; omega

theorem arm_armed (x : Xfer) (e : Env) (mode : XferMode) (psm : BitVec 6) (cap : Nat) : ((x.latch e).arm mode psm cap).Armed := by
  have h := latch_size x e
  refine ⟨h.1, h.2.1, h.2.2.1, h.2.2.2, ?_, Nat.zero_le _, Nat.zero_le _, Nat.min_le_left _ _, by simp [Xfer.arm, Xfer.latch]⟩
  have : ((x.latch e).arm mode psm cap).cx = 0 := rfl
  rw [this]; exact h.1

/-- After the latching the bits per pixel and the total are those of the last transfer, and the count is 0. -/
theorem latch_inRange {x : Xfer} (h : x.InRange) (e : Env) : (x.latch e).InRange := by
  have hl := latch_size x e
  exact ⟨hl.2.1, hl.2.2.2, .inr ⟨hl.1, hl.2.2.1, hl.1, Nat.zero_le _⟩, h.bpp, Nat.zero_le _, h.total_lt⟩

theorem transferStart_ok (x : BitVec 2) {s : State} (h : s.xfer.Ok) : (transferStart x s).xfer.Ok := by
  have hi : (s.xfer.latch s.env).Ok := idle_ok (latch_inRange h.range _) rfl rfl rfl
  unfold transferStart
  split
  · exact (arm_armed _ _ _ _ _).writeOk rfl rfl (by
      have := pixelBits_range (knownPsm (dpsm (s.xfer.latch s.env).blit))
      simp only [Xfer.arm, Xfer.latch] at this ⊢; omega)
  · exact (arm_armed _ _ _ _ _).readOk rfl rfl (Nat.zero_le _)
  · have e : (move { s with xfer := s.xfer.latch s.env }).xfer = s.xfer.latch s.env := by
      simp [move]
    dsimp only
    rw [e]; exact hi
  · exact hi

/-! ## Read -/

theorem takePixel_armed {x : Xfer} (h : x.Armed) {v : BitVec 32} (hv : v.toNat < 2 ^ x.bpp) :
    (x.takePixel v).Armed :=
  ⟨h.w_ge, h.w_le, h.h_ge, h.h_le, h.cx_lt, h.cy_le, h.done_le, h.total_le, or_shift_lt h.bits hv⟩

/-- After the fill, at least the next byte's bits are there. -/
theorem fillLoop_armed (k : Nat) (s : State) (h : s.xfer.Armed) (hm : s.xfer.mode = .read)
    (hb : s.xfer.bpp = pixelBits (knownPsm (spsm s.xfer.blit))) (hp : s.xfer.pcount ≤ 39) (hk : 8 ≤ s.xfer.pcount + 4 * k) :
    (fillLoop k s).xfer.Armed ∧ 8 ≤ (fillLoop k s).xfer.pcount ∧ (fillLoop k s).xfer.pcount ≤ 39 ∧
      s.xfer.SameShape (fillLoop k s).xfer ∧ (fillLoop k s).xfer.done = s.xfer.done ∧
      (fillLoop k s).xfer.total = s.xfer.total := by
  have hr : 4 ≤ s.xfer.bpp ∧ s.xfer.bpp ≤ 32 := by
    rw [hb]; rcases pixelBits_range (knownPsm (spsm s.xfer.blit)) with h | h | h | h | h <;> rw [h] <;> decide
  induction k generalizing s with
  | zero => exact ⟨h, by simp only [fillLoop]; omega, hp, ⟨rfl, rfl, rfl, rfl⟩, rfl, rfl⟩
  | succ k ih =>
    unfold fillLoop
    split
    · next h8 =>
      split
      · next hc =>
        have hv := readPixel_lt (flush s).mem (knownPsm (spsm s.xfer.blit)) (sbp s.xfer.blit) (sbw s.xfer.blit)
          (rectX (ssax s.xfer.pos) s.xfer.cx) (rectY (ssay s.xfer.pos) s.xfer.cy)
        rw [← hb] at hv
        have ha := advance_armed (takePixel_armed h hv) hc
        have := ih (fetchPixel s) ha (by simp only [fetchPixel, advance_mode]; exact hm)
          (by simp only [fetchPixel, advance_bpp, advance_blit]; exact hb)
          (by simp only [fetchPixel, advance_pcount, Xfer.takePixel]; omega)
          (by simp only [fetchPixel, advance_pcount, Xfer.takePixel]; omega)
          (by simp only [fetchPixel, advance_bpp]; exact hr)
        refine ⟨this.1, this.2.1, this.2.2.1, ⟨?_, ?_, ?_, ?_⟩, ?_, ?_⟩
        · rw [this.2.2.2.1.mode]; exact advance_mode _
        · rw [this.2.2.2.1.bpp]; exact advance_bpp _
        · rw [this.2.2.2.1.blit]; exact advance_blit _
        · rw [this.2.2.2.1.pos]; exact advance_pos _
        · rw [this.2.2.2.2.1]; exact advance_done _
        · rw [this.2.2.2.2.2]; exact advance_total _
      · next hc =>
        have ha : Xfer.Armed { s.xfer with pcount := 8 } :=
          ⟨h.w_ge, h.w_le, h.h_ge, h.h_le, h.cx_lt, h.cy_le, h.done_le, h.total_le,
            Nat.lt_of_lt_of_le h.bits (Nat.pow_le_pow_right (by decide) (by change s.xfer.pcount ≤ 8; omega))⟩
        have := ih { s with xfer := { s.xfer with pcount := 8 } } ha hm hb (by decide : 8 ≤ 39) (by change 8 ≤ 8 + 4 * k; omega) hr
        exact ⟨this.1, this.2.1, this.2.2.1, ⟨this.2.2.2.1.mode, this.2.2.2.1.bpp, this.2.2.2.1.blit, this.2.2.2.1.pos⟩,
          this.2.2.2.2.1, this.2.2.2.2.2⟩
    · next h8 => exact ⟨h, by omega, hp, ⟨rfl, rfl, rfl, rfl⟩, rfl, rfl⟩

theorem readByte_ok {s : State} (h : s.xfer.Ok) :
    (readByte s).1.xfer.Ok ∧ (readByte s).1.xfer.blit = s.xfer.blit ∧ (readByte s).1.xfer.pos = s.xfer.pos := by
  unfold readByte
  split
  · next hg =>
    simp only [Xfer.givesByte, Bool.and_eq_true, beq_iff_eq, decide_eq_true_eq] at hg
    have hi : s.xfer.mode ≠ .idle := by simp [hg.1]
    have hp := h.read hg.1
    have hl := fillLoop_armed 8 s (h.armed hi) hg.1 (h.bppRead hg.1) (by omega) (by omega)
    dsimp only
    generalize fillLoop 8 s = t at hl ⊢
    obtain ⟨ha, h8, h39, hs, hd, ht⟩ := hl
    obtain ⟨h1, h2, h3, h4, h5, h6, h7, h9, h10⟩ := ha
    have hok : Xfer.Ok { t.xfer.dropBits 8 with done := t.xfer.done + 1 } := by
      refine Xfer.Armed.readOk ⟨h1, h2, h3, h4, h5, h6, ?_, h9, shift_lt h10 h8⟩ (hs.mode.trans hg.1) ?_ ?_
      · dsimp only [Xfer.dropBits]; omega
      · dsimp only [Xfer.dropBits]; rw [hs.bpp, hs.blit]; exact h.bppRead hg.1
      · dsimp only [Xfer.dropBits]; omega
    refine ⟨finishIfDone_ok hok, ?_, ?_⟩ <;> unfold Xfer.finishIfDone <;> split <;>
      simp only [Xfer.finish, Xfer.dropBits, hs.blit, hs.pos]
  · exact ⟨h, rfl, rfl⟩

theorem readBytes_ok {s : State} (n : Nat) (h : s.xfer.Ok) :
    (readBytes n s).1.xfer.Ok ∧ (readBytes n s).1.xfer.blit = s.xfer.blit ∧ (readBytes n s).1.xfer.pos = s.xfer.pos := by
  induction n generalizing s with
  | zero => exact ⟨h, rfl, rfl⟩
  | succ n ih =>
    have hb := readByte_ok h
    have := ih hb.1
    exact ⟨this.1, this.2.1.trans hb.2.1, this.2.2.trans hb.2.2⟩

theorem readFIFO_ok {s : State} (n : Nat) (h : s.xfer.Ok) :
    (readFIFO n s).xfer.Ok ∧ (readFIFO n s).xfer.blit = s.xfer.blit ∧ (readFIFO n s).xfer.pos = s.xfer.pos :=
  readBytes_ok (16 * n) h

/-- A ReadFIFO call returns as many bytes as asked for. -/
theorem readBytes_length (n : Nat) (s : State) : (readBytes n s).2.length = n := by
  induction n generalizing s with
  | zero => rfl
  | succ n ih => simp [readBytes, ih]

end Sys2Proof.Machine
end

