-- ==== Sys2Proof/Laws/Exec.lean ====
section
/-! SUPPORT. What an instruction can do, said once: every instruction is one of these effects. -/

namespace Sys2Proof.Machine

/-- The effects of instructions on a state (40_gif_decoder R171 to R197, 41_register_dispatch R220). -/
inductive Effect (s : State) : State → Prop where
  | none : Effect s s
  | env (r : EnvReg) (v : Word64) : r ≠ .prim → r ≠ .prmode → r ≠ .trxdir → Effect s (caWriteEnv r v s)
  | ctx (r : CtxReg) (c : CtxId) (v : Word64) : Effect s (caWriteCtx r c v s)
  | prmode (v : Word64) : Effect s (prmodeWrite v s)
  | prim (v : BitVec 11) : Effect s (applyPrim v s)
  | accumulator (a : VAcc) (q : BitVec 32) : Effect s { s with vacc := a, qint := q }
  | kickF (x y : BitVec 16) (z : BitVec 32) (f : BitVec 8) (skip : Bool) : Effect s (kick x y z skip (fogSet f s))
  | kick (x y : BitVec 16) (z : BitVec 32) (skip : Bool) : Effect s (kick x y z skip s)
  | trxdir (v : Word64) : Effect s (trxdirWrite v s)
  | data (bs : List Byte) : Effect s (xferData bs s)
  | tag (flg : BitVec 2) (t : TagFields) : Effect s (tagStart flg t s)
  | image (q : Qword) : Effect s (imageQword q s)
  | reserved : Effect s (refuse .reservedDescriptor s)

theorem xyzf_effect (x y : BitVec 16) (z : BitVec 24) (f : BitVec 8) (skip : Bool) (s : State) :
    Effect s (xyzfWrite x y z f skip s) := by
  unfold xyzfWrite
  split
  · exact .kickF x y (z.setWidth 32) f skip
  · exact .none

theorem xyz_effect (x y : BitVec 16) (z : BitVec 32) (skip : Bool) (s : State) : Effect s (xyzWrite x y z skip s) := by
  unfold xyzWrite
  split
  · exact .kick x y z skip
  · exact .none

theorem writeReg_effect (a : BitVec 7) (v : Word64) (s : State) : ∃ t, writeReg a v s = .next t ∧ Effect s t := by
  unfold writeReg
  split
  all_goals refine ⟨_, rfl, ?_⟩
  all_goals first
    | with_reducible exact .none
    | with_reducible exact .ctx _ _ _
    | with_reducible exact .env _ _ (by decide) (by decide) (by decide)
    | with_reducible exact .prmode _
    | with_reducible exact .prim _
    | with_reducible exact .trxdir _
    | with_reducible exact .data _
    | unfold tex2Write; with_reducible exact .ctx _ _ _
    | unfold hwregWrite; with_reducible exact .data _
    | unfold xyzfValue; with_reducible exact xyzf_effect _ _ _ _ _ _
    | unfold xyzValue; with_reducible exact xyz_effect _ _ _ _ _
    | exact .accumulator _ s.qint

/-- Every instruction answers a next state, by one of the effects. -/
theorem exec_effect (i : Instr) (s : State) : ∃ t, exec i s = .next t ∧ Effect s t := by
  cases i
  all_goals first
    | (refine ⟨_, rfl, ?_⟩
       first
         | with_reducible exact .none
         | with_reducible exact .ctx _ _ _
         | with_reducible exact .env _ _ (by decide) (by decide) (by decide)
         | with_reducible exact .prmode _
         | with_reducible exact .prim _
         | with_reducible exact .trxdir _
         | with_reducible exact .data _
         | with_reducible exact .tag _ _
         | with_reducible exact xyzf_effect _ _ _ _ _ _
         | with_reducible exact xyz_effect _ _ _ _ _
         | unfold tex2Write; with_reducible exact .ctx _ _ _
         | unfold hwregWrite; with_reducible exact .data _
         | unfold xyzfValue; with_reducible exact xyzf_effect _ _ _ _ _ _
         | unfold xyzValue; with_reducible exact xyz_effect _ _ _ _ _
         | exact .accumulator _ s.qint
         | exact .accumulator _ _)
    | skip
  case packedAd a v => exact writeReg_effect a v s
  case giftagImage u => cases u; exacts [⟨_, rfl, .tag _ _⟩, ⟨_, rfl, .image _⟩]
  case giftagImage2 u => cases u; exacts [⟨_, rfl, .tag _ _⟩, ⟨_, rfl, .image _⟩]
  case packedReservedB =>
    change ∃ t, execPackedReservedB s = .next t ∧ _
    unfold execPackedReservedB
    split
    · exact ⟨_, rfl, .none⟩
    · exact ⟨_, rfl, .reserved⟩

end Sys2Proof.Machine
end

