-- ==== Sys2Proof/Laws/PerInstr.lean ====
section
/-! SUPPORT. The round trip of the encoding, one lemma for each instruction: decoding its encoding gives it back (30_encoding R110, R120,
R121, R122, R140). -/

namespace Sys2Proof

set_option simprocs false

/-! ## Fields of concatenations -/

theorem bits_append_low {n m : Nat} (a : BitVec n) (b : BitVec m) {lo len : Nat} (h : lo + len ≤ m) :
    bits (a ++ b) lo len = bits b lo len := by
  refine BitVec.eq_of_getLsbD_eq fun i hi => ?_
  simp only [bits, BitVec.getLsbD_extractLsb', BitVec.getLsbD_append]
  simp [show lo + i < m by omega]

theorem bits_append_high {n m : Nat} (a : BitVec n) (b : BitVec m) {lo len : Nat} (h : m ≤ lo) :
    bits (a ++ b) lo len = bits a (lo - m) len := by
  refine BitVec.eq_of_getLsbD_eq fun i hi => ?_
  simp only [bits, BitVec.getLsbD_extractLsb', BitVec.getLsbD_append]
  simp [show ¬ lo + i < m by omega, show lo + i - m = lo - m + i by omega]

theorem bits_all {n : Nat} (a : BitVec n) {lo : Nat} (h : lo = 0) : bits a lo n = a := by
  subst h
  refine BitVec.eq_of_getLsbD_eq fun i hi => ?_
  simp [bits, hi]

theorem bit_append_low {n m : Nat} (a : BitVec n) (b : BitVec m) {i : Nat} (h : i < m) : bit (a ++ b) i = bit b i := by
  simp [bit, BitVec.getLsbD_append, h]

theorem bit_append_high {n m : Nat} (a : BitVec n) (b : BitVec m) {i : Nat} (h : m ≤ i) : bit (a ++ b) i = bit a (i - m) := by
  simp [bit, BitVec.getLsbD_append, Nat.not_lt.mpr h]

theorem bit_ofBool (b : Bool) {i : Nat} (h : i = 0) : bit (BitVec.ofBool b) i = b := by subst h; cases b <;> rfl

/-! ## The units -/

theorem tagFlg_encodeTag (flg : BitVec 2) (t : TagFields) : tagFlg (encodeTag flg t) = flg := by
  change bits (t.regs ++ t.nreg ++ flg ++ t.prim ++ BitVec.ofBool t.pre ++ t.ignored ++ BitVec.ofBool t.eop ++ t.nloop) 58 2 = flg
  simp (disch := decide) only [bits_append_low, bits_append_high, bits_all]

theorem tagFields_encodeTag (flg : BitVec 2) (t : TagFields) : tagFields (encodeTag flg t) = t := by
  change TagFields.mk
    (bits (t.regs ++ t.nreg ++ flg ++ t.prim ++ BitVec.ofBool t.pre ++ t.ignored ++ BitVec.ofBool t.eop ++ t.nloop) 0 15)
    (bit (t.regs ++ t.nreg ++ flg ++ t.prim ++ BitVec.ofBool t.pre ++ t.ignored ++ BitVec.ofBool t.eop ++ t.nloop) 15)
    (bits (t.regs ++ t.nreg ++ flg ++ t.prim ++ BitVec.ofBool t.pre ++ t.ignored ++ BitVec.ofBool t.eop ++ t.nloop) 16 30)
    (bit (t.regs ++ t.nreg ++ flg ++ t.prim ++ BitVec.ofBool t.pre ++ t.ignored ++ BitVec.ofBool t.eop ++ t.nloop) 46)
    (bits (t.regs ++ t.nreg ++ flg ++ t.prim ++ BitVec.ofBool t.pre ++ t.ignored ++ BitVec.ofBool t.eop ++ t.nloop) 47 11)
    (bits (t.regs ++ t.nreg ++ flg ++ t.prim ++ BitVec.ofBool t.pre ++ t.ignored ++ BitVec.ofBool t.eop ++ t.nloop) 60 4)
    (bits (t.regs ++ t.nreg ++ flg ++ t.prim ++ BitVec.ofBool t.pre ++ t.ignored ++ BitVec.ofBool t.eop ++ t.nloop) 64 64) = t
  simp (disch := decide) only [bits_append_low, bits_append_high, bits_all, bit_append_low, bit_append_high, bit_ofBool]

theorem adSlot_addr (addr : BitVec 7) (v : Word64) : bits (adSlot addr v) 64 7 = addr := by
  change bits (0#57 ++ addr ++ v) 64 7 = addr
  simp (disch := decide) only [bits_append_low, bits_append_high, bits_all]

theorem adSlot_data (addr : BitVec 7) (v : Word64) : bits (adSlot addr v) 0 64 = v := by
  change bits (0#57 ++ addr ++ v) 0 64 = v
  simp (disch := decide) only [bits_append_low, bits_all]

theorem decode_adUnit (addr : BitVec 7) (v : Word64) : decode (adUnit addr v) = decodeAdSlot addr v := by
  change decodeAdSlot (bits (adSlot addr v) 64 7) (bits (adSlot addr v) 0 64) = _
  rw [adSlot_addr, adSlot_data]

theorem decode_reglistUnit (d : BitVec 4) (v : Word64) : decode (reglistUnit d v) = decodeReglist d v := by
  change decodeReglist d (bits (0#64 ++ v) 0 64) = _
  rw [bits_append_low _ _ (by decide), bits_all _ rfl]

theorem decodeTag_encodeTag_0 (t : TagFields) : decodeTag (encodeTag 0#2 t) = .giftagPacked t := by
  unfold decodeTag; rw [tagFlg_encodeTag, tagFields_encodeTag]; rfl

theorem decodeTag_encodeTag_1 (t : TagFields) : decodeTag (encodeTag 1#2 t) = .giftagReglist t := by
  unfold decodeTag; rw [tagFlg_encodeTag, tagFields_encodeTag]; rfl

theorem decodeTag_encodeTag_2 (t : TagFields) : decodeTag (encodeTag 2#2 t) = .giftagImage (.tag t) := by
  unfold decodeTag; rw [tagFlg_encodeTag, tagFields_encodeTag]; rfl

theorem decodeTag_encodeTag_3 (t : TagFields) : decodeTag (encodeTag 3#2 t) = .giftagImage2 (.tag t) := by
  unfold decodeTag; rw [tagFlg_encodeTag, tagFields_encodeTag]; rfl

/-- No row of the table has a reserved address (30_encoding R141). -/
theorem decodeAd_unassigned {addr : BitVec 7} (h : unassignedAddr addr = true) (v : Word64) : decodeAd addr v = none := by
  unfold decodeAd
  split <;> first | exact absurd h (by decide) | rfl

theorem decodeAdSlot_unassigned {addr : BitVec 7} (h : unassignedAddr addr = true) (v : Word64) :
    decodeAdSlot addr v = .packedAd addr v := by
  rw [decodeAdSlot, decodeAd_unassigned h]; rfl

end Sys2Proof

namespace Sys2Proof.Laws.RoundTrip

set_option simprocs false

/-- Decoding the encoding of a well-formed instruction gives it back. -/
def Statement (i : Instr) : Prop := i.wellFormed = true → decode (encode i) = i

theorem giftagPacked (t : TagFields) : Statement (.giftagPacked t) := fun _ => decodeTag_encodeTag_0 t

theorem giftagReglist (t : TagFields) : Statement (.giftagReglist t) := fun _ => decodeTag_encodeTag_1 t

theorem giftagImage (u : ImageUnit) : Statement (.giftagImage u) := fun _ => by
  cases u with
  | tag t => exact decodeTag_encodeTag_2 t
  | data q => rfl

theorem giftagImage2 (u : ImageUnit) : Statement (.giftagImage2 u) := fun _ => by
  cases u with
  | tag t => exact decodeTag_encodeTag_3 t
  | data q => rfl

theorem packedPrim (v : BitVec 11) : Statement (.packedPrim v) := fun _ => by
  change Instr.packedPrim (bits (0#117 ++ v) 0 11) = _
  simp (disch := decide) only [bits_append_low, bits_all]

theorem packedRgba (r g b a : BitVec 8) : Statement (.packedRgba r g b a) := fun _ => by
  change Instr.packedRgba (bits (0#24 ++ a ++ 0#24 ++ b ++ 0#24 ++ g ++ 0#24 ++ r) 0 8) (bits (0#24 ++ a ++ 0#24 ++ b ++ 0#24 ++ g ++ 0#24 ++ r) 32 8) (bits (0#24 ++ a ++ 0#24 ++ b ++ 0#24 ++ g ++ 0#24 ++ r) 64 8) (bits (0#24 ++ a ++ 0#24 ++ b ++ 0#24 ++ g ++ 0#24 ++ r) 96 8) = _
  simp (disch := decide) only [bits_append_low, bits_append_high, bits_all]

theorem packedStq (s t q : BitVec 32) : Statement (.packedStq s t q) := fun _ => by
  change Instr.packedStq (bits (0#32 ++ q ++ t ++ s) 0 32) (bits (0#32 ++ q ++ t ++ s) 32 32) (bits (0#32 ++ q ++ t ++ s) 64 32) = _
  simp (disch := decide) only [bits_append_low, bits_append_high, bits_all]

theorem packedUv (u v : BitVec 14) : Statement (.packedUv u v) := fun _ => by
  change Instr.packedUv (bits (0#82 ++ v ++ 0#18 ++ u) 0 14) (bits (0#82 ++ v ++ 0#18 ++ u) 32 14) = _
  simp (disch := decide) only [bits_append_low, bits_append_high, bits_all]

theorem packedXyzf2 (x y : BitVec 16) (z : BitVec 24) (f : BitVec 8) (adc : Bool) : Statement (.packedXyzf2 x y z f adc) := fun _ => by
  change Instr.packedXyzf2 (bits (0#16 ++ BitVec.ofBool adc ++ 0#3 ++ f ++ 0#8 ++ z ++ 0#4 ++ 0#16 ++ y ++ 0#16 ++ x) 0 16) (bits (0#16 ++ BitVec.ofBool adc ++ 0#3 ++ f ++ 0#8 ++ z ++ 0#4 ++ 0#16 ++ y ++ 0#16 ++ x) 32 16) (bits (0#16 ++ BitVec.ofBool adc ++ 0#3 ++ f ++ 0#8 ++ z ++ 0#4 ++ 0#16 ++ y ++ 0#16 ++ x) 68 24) (bits (0#16 ++ BitVec.ofBool adc ++ 0#3 ++ f ++ 0#8 ++ z ++ 0#4 ++ 0#16 ++ y ++ 0#16 ++ x) 100 8) (bit (0#16 ++ BitVec.ofBool adc ++ 0#3 ++ f ++ 0#8 ++ z ++ 0#4 ++ 0#16 ++ y ++ 0#16 ++ x) 111) = _
  simp (disch := decide) only [bits_append_low, bits_append_high, bits_all, bit_append_low, bit_append_high, bit_ofBool]

theorem packedXyz2 (x y : BitVec 16) (z : BitVec 32) (adc : Bool) : Statement (.packedXyz2 x y z adc) := fun _ => by
  change Instr.packedXyz2 (bits (0#16 ++ BitVec.ofBool adc ++ 0#15 ++ z ++ 0#16 ++ y ++ 0#16 ++ x) 0 16) (bits (0#16 ++ BitVec.ofBool adc ++ 0#15 ++ z ++ 0#16 ++ y ++ 0#16 ++ x) 32 16) (bits (0#16 ++ BitVec.ofBool adc ++ 0#15 ++ z ++ 0#16 ++ y ++ 0#16 ++ x) 64 32) (bit (0#16 ++ BitVec.ofBool adc ++ 0#15 ++ z ++ 0#16 ++ y ++ 0#16 ++ x) 111) = _
  simp (disch := decide) only [bits_append_low, bits_append_high, bits_all, bit_append_low, bit_append_high, bit_ofBool]

theorem packedTex0_1 (data : Word64) : Statement (.packedTex0_1 data) := fun _ => by
  change Instr.packedTex0_1 (bits (0#64 ++ data) 0 64) = _
  simp (disch := decide) only [bits_append_low, bits_all]

theorem packedTex0_2 (data : Word64) : Statement (.packedTex0_2 data) := fun _ => by
  change Instr.packedTex0_2 (bits (0#64 ++ data) 0 64) = _
  simp (disch := decide) only [bits_append_low, bits_all]

theorem packedClamp_1 (data : Word64) : Statement (.packedClamp_1 data) := fun _ => by
  change Instr.packedClamp_1 (bits (0#64 ++ data) 0 64) = _
  simp (disch := decide) only [bits_append_low, bits_all]

theorem packedClamp_2 (data : Word64) : Statement (.packedClamp_2 data) := fun _ => by
  change Instr.packedClamp_2 (bits (0#64 ++ data) 0 64) = _
  simp (disch := decide) only [bits_append_low, bits_all]

theorem packedFog (f : BitVec 8) : Statement (.packedFog f) := fun _ => by
  change Instr.packedFog (bits (0#20 ++ f ++ 0#100) 100 8) = _
  simp (disch := decide) only [bits_append_low, bits_append_high, bits_all]

theorem packedReservedB : Statement (.packedReservedB) := fun _ => rfl

theorem packedXyzf3 (x y : BitVec 16) (z : BitVec 24) (f : BitVec 8) : Statement (.packedXyzf3 x y z f) := fun _ => by
  change Instr.packedXyzf3 (bits (0#20 ++ f ++ 0#8 ++ z ++ 0#4 ++ 0#16 ++ y ++ 0#16 ++ x) 0 16) (bits (0#20 ++ f ++ 0#8 ++ z ++ 0#4 ++ 0#16 ++ y ++ 0#16 ++ x) 32 16) (bits (0#20 ++ f ++ 0#8 ++ z ++ 0#4 ++ 0#16 ++ y ++ 0#16 ++ x) 68 24) (bits (0#20 ++ f ++ 0#8 ++ z ++ 0#4 ++ 0#16 ++ y ++ 0#16 ++ x) 100 8) = _
  simp (disch := decide) only [bits_append_low, bits_append_high, bits_all]

theorem packedXyz3 (x y : BitVec 16) (z : BitVec 32) : Statement (.packedXyz3 x y z) := fun _ => by
  change Instr.packedXyz3 (bits (0#32 ++ z ++ 0#16 ++ y ++ 0#16 ++ x) 0 16) (bits (0#32 ++ z ++ 0#16 ++ y ++ 0#16 ++ x) 32 16) (bits (0#32 ++ z ++ 0#16 ++ y ++ 0#16 ++ x) 64 32) = _
  simp (disch := decide) only [bits_append_low, bits_append_high, bits_all]

theorem packedAd (addr : BitVec 7) (data : Word64) : Statement (.packedAd addr data) := fun h => (decode_adUnit addr data).trans (decodeAdSlot_unassigned h data)

theorem packedNop : Statement (.packedNop) := fun _ => rfl

theorem reglistPrim (v : Word64) : Statement (.reglistPrim v) := fun _ => decode_reglistUnit _ v

theorem reglistRgbaq (v : Word64) : Statement (.reglistRgbaq v) := fun _ => decode_reglistUnit _ v

theorem reglistSt (v : Word64) : Statement (.reglistSt v) := fun _ => decode_reglistUnit _ v

theorem reglistUv (v : Word64) : Statement (.reglistUv v) := fun _ => decode_reglistUnit _ v

theorem reglistXyzf2 (v : Word64) : Statement (.reglistXyzf2 v) := fun _ => decode_reglistUnit _ v

theorem reglistXyz2 (v : Word64) : Statement (.reglistXyz2 v) := fun _ => decode_reglistUnit _ v

theorem reglistTex0_1 (v : Word64) : Statement (.reglistTex0_1 v) := fun _ => decode_reglistUnit _ v

theorem reglistTex0_2 (v : Word64) : Statement (.reglistTex0_2 v) := fun _ => decode_reglistUnit _ v

theorem reglistClamp_1 (v : Word64) : Statement (.reglistClamp_1 v) := fun _ => decode_reglistUnit _ v

theorem reglistClamp_2 (v : Word64) : Statement (.reglistClamp_2 v) := fun _ => decode_reglistUnit _ v

theorem reglistFog (v : Word64) : Statement (.reglistFog v) := fun _ => decode_reglistUnit _ v

theorem reglistUnassigned0B (v : Word64) : Statement (.reglistUnassigned0B v) := fun _ => decode_reglistUnit _ v

theorem reglistXyzf3 (v : Word64) : Statement (.reglistXyzf3 v) := fun _ => decode_reglistUnit _ v

theorem reglistXyz3 (v : Word64) : Statement (.reglistXyz3 v) := fun _ => decode_reglistUnit _ v

theorem reglistAd (v : Word64) : Statement (.reglistAd v) := fun _ => decode_reglistUnit _ v

theorem reglistNop (v : Word64) : Statement (.reglistNop v) := fun _ => decode_reglistUnit _ v

theorem adPrim (v : Word64) : Statement (.adPrim v) := fun _ => decode_adUnit _ v

theorem adRgbaq (v : Word64) : Statement (.adRgbaq v) := fun _ => decode_adUnit _ v

theorem adSt (v : Word64) : Statement (.adSt v) := fun _ => decode_adUnit _ v

theorem adUv (v : Word64) : Statement (.adUv v) := fun _ => decode_adUnit _ v

theorem adXyzf2 (v : Word64) : Statement (.adXyzf2 v) := fun _ => decode_adUnit _ v

theorem adXyz2 (v : Word64) : Statement (.adXyz2 v) := fun _ => decode_adUnit _ v

theorem adTex0_1 (v : Word64) : Statement (.adTex0_1 v) := fun _ => decode_adUnit _ v

theorem adTex0_2 (v : Word64) : Statement (.adTex0_2 v) := fun _ => decode_adUnit _ v

theorem adClamp_1 (v : Word64) : Statement (.adClamp_1 v) := fun _ => decode_adUnit _ v

theorem adClamp_2 (v : Word64) : Statement (.adClamp_2 v) := fun _ => decode_adUnit _ v

theorem adFog (v : Word64) : Statement (.adFog v) := fun _ => decode_adUnit _ v

theorem adXyzf3 (v : Word64) : Statement (.adXyzf3 v) := fun _ => decode_adUnit _ v

theorem adXyz3 (v : Word64) : Statement (.adXyz3 v) := fun _ => decode_adUnit _ v

theorem adTex1_1 (v : Word64) : Statement (.adTex1_1 v) := fun _ => decode_adUnit _ v

theorem adTex1_2 (v : Word64) : Statement (.adTex1_2 v) := fun _ => decode_adUnit _ v

theorem adTex2_1 (v : Word64) : Statement (.adTex2_1 v) := fun _ => decode_adUnit _ v

theorem adTex2_2 (v : Word64) : Statement (.adTex2_2 v) := fun _ => decode_adUnit _ v

theorem adXyoffset_1 (v : Word64) : Statement (.adXyoffset_1 v) := fun _ => decode_adUnit _ v

theorem adXyoffset_2 (v : Word64) : Statement (.adXyoffset_2 v) := fun _ => decode_adUnit _ v

theorem adPrmodecont (v : Word64) : Statement (.adPrmodecont v) := fun _ => decode_adUnit _ v

theorem adPrmode (v : Word64) : Statement (.adPrmode v) := fun _ => decode_adUnit _ v

theorem adTexclut (v : Word64) : Statement (.adTexclut v) := fun _ => decode_adUnit _ v

theorem adScanmsk (v : Word64) : Statement (.adScanmsk v) := fun _ => decode_adUnit _ v

theorem adMiptbp1_1 (v : Word64) : Statement (.adMiptbp1_1 v) := fun _ => decode_adUnit _ v

theorem adMiptbp1_2 (v : Word64) : Statement (.adMiptbp1_2 v) := fun _ => decode_adUnit _ v

theorem adMiptbp2_1 (v : Word64) : Statement (.adMiptbp2_1 v) := fun _ => decode_adUnit _ v

theorem adMiptbp2_2 (v : Word64) : Statement (.adMiptbp2_2 v) := fun _ => decode_adUnit _ v

theorem adTexa (v : Word64) : Statement (.adTexa v) := fun _ => decode_adUnit _ v

theorem adFogcol (v : Word64) : Statement (.adFogcol v) := fun _ => decode_adUnit _ v

theorem adTexflush (v : Word64) : Statement (.adTexflush v) := fun _ => decode_adUnit _ v

theorem adScissor_1 (v : Word64) : Statement (.adScissor_1 v) := fun _ => decode_adUnit _ v

theorem adScissor_2 (v : Word64) : Statement (.adScissor_2 v) := fun _ => decode_adUnit _ v

theorem adAlpha_1 (v : Word64) : Statement (.adAlpha_1 v) := fun _ => decode_adUnit _ v

theorem adAlpha_2 (v : Word64) : Statement (.adAlpha_2 v) := fun _ => decode_adUnit _ v

theorem adDimx (v : Word64) : Statement (.adDimx v) := fun _ => decode_adUnit _ v

theorem adDthe (v : Word64) : Statement (.adDthe v) := fun _ => decode_adUnit _ v

theorem adColclamp (v : Word64) : Statement (.adColclamp v) := fun _ => decode_adUnit _ v

theorem adTest_1 (v : Word64) : Statement (.adTest_1 v) := fun _ => decode_adUnit _ v

theorem adTest_2 (v : Word64) : Statement (.adTest_2 v) := fun _ => decode_adUnit _ v

theorem adPabe (v : Word64) : Statement (.adPabe v) := fun _ => decode_adUnit _ v

theorem adFba_1 (v : Word64) : Statement (.adFba_1 v) := fun _ => decode_adUnit _ v

theorem adFba_2 (v : Word64) : Statement (.adFba_2 v) := fun _ => decode_adUnit _ v

theorem adFrame_1 (v : Word64) : Statement (.adFrame_1 v) := fun _ => decode_adUnit _ v

theorem adFrame_2 (v : Word64) : Statement (.adFrame_2 v) := fun _ => decode_adUnit _ v

theorem adZbuf_1 (v : Word64) : Statement (.adZbuf_1 v) := fun _ => decode_adUnit _ v

theorem adZbuf_2 (v : Word64) : Statement (.adZbuf_2 v) := fun _ => decode_adUnit _ v

theorem adBitbltbuf (v : Word64) : Statement (.adBitbltbuf v) := fun _ => decode_adUnit _ v

theorem adTrxpos (v : Word64) : Statement (.adTrxpos v) := fun _ => decode_adUnit _ v

theorem adTrxreg (v : Word64) : Statement (.adTrxreg v) := fun _ => decode_adUnit _ v

theorem adTrxdir (v : Word64) : Statement (.adTrxdir v) := fun _ => decode_adUnit _ v

theorem adHwreg (v : Word64) : Statement (.adHwreg v) := fun _ => decode_adUnit _ v

theorem adSignal (v : Word64) : Statement (.adSignal v) := fun _ => decode_adUnit _ v

theorem adFinish (v : Word64) : Statement (.adFinish v) := fun _ => decode_adUnit _ v

theorem adLabel (v : Word64) : Statement (.adLabel v) := fun _ => decode_adUnit _ v

end Sys2Proof.Laws.RoundTrip
end

