-- ==== Sys2Proof/Laws/Snapshot.lean ====
section
/-! SUPPORT. The laws of save-states (70 R433), whatever the format: Defrost finds in a frozen image's bytes that image, and gives no
image but of a state the spec allows. -/

namespace Sys2Proof.Machine

/-! ## `Image.legal` decides `Image.Ok` -/

theorem Env.legal_iff (e : Env) : e.legal = true ↔ e.reservedClear := by
  unfold Env.legal Env.reservedClear
  rw [List.all_eq_true]
  exact ⟨fun h r => by simpa using h r (by cases r <;> decide), fun h r _ => by simpa using h r⟩

theorem Ctx.legal_iff (c : Ctx) : c.legal = true ↔ c.reservedClear := by
  unfold Ctx.legal Ctx.reservedClear
  rw [List.all_eq_true]
  exact ⟨fun h r => by simpa using h r (by cases r <;> decide), fun h r _ => by simpa using h r⟩

theorem VertexQueue.legal_iff (q : VertexQueue) : q.legal = true ↔ q.CursorsOk := by
  simp only [VertexQueue.legal, Bool.and_eq_true, decide_eq_true_eq, List.all_eq_true]
  exact ⟨fun ⟨⟨h1, h2⟩, h3⟩ => ⟨h1, h2, h3⟩, fun h => ⟨⟨h.head_le, h.next_le⟩, h.index_lt⟩⟩

theorem VertexQueue.between_iff (q : VertexQueue) (t : Topology) : q.between t = true ↔ q.Between t := by
  simp only [VertexQueue.between, Bool.and_eq_true, Bool.or_eq_true, decide_eq_true_eq, beq_iff_eq, bne_iff_ne, ne_eq,
    List.isEmpty_iff]
  constructor
  · rintro ⟨⟨⟨h1, h2⟩, h3⟩, h4⟩
    exact ⟨h1, h2.resolve_left, fun hg => h3.resolve_left (not_not_intro hg), fun hg => h4.resolve_left (not_not_intro hg)⟩
  · intro h
    exact ⟨⟨⟨h.whole, or_iff_not_imp_left.2 h.partialFew⟩, or_iff_not_imp_left.2 fun hg => h.listNext (not_not.1 hg)⟩,
      or_iff_not_imp_left.2 fun hg => h.discardNone (not_not.1 hg)⟩

theorem XY.legal_iff (p : XY) : p.legal = true ↔ p.Ok := by
  simp only [XY.legal, fits18, Bool.and_eq_true, decide_eq_true_eq]
  exact ⟨fun ⟨⟨h1, h2⟩, h3, h4⟩ => ⟨h1, h2, h3, h4⟩, fun h => ⟨⟨h.x_ge, h.x_lt⟩, h.y_ge, h.y_lt⟩⟩

theorem Window.legal_iff (w : Window) : w.legal = true ↔ w.Ok := by
  simp only [Window.legal, Bool.and_eq_true, XY.legal_iff]
  exact ⟨fun ⟨⟨⟨h1, h2⟩, h3⟩, h4⟩ => ⟨h1, h2, h3, h4⟩, fun h => ⟨⟨⟨h.e0, h.e1⟩, h.e2⟩, h.e3⟩⟩

theorem Xfer.inRange_iff (x : Xfer) : x.inRange = true ↔ x.InRange := by
  simp only [Xfer.inRange, Bool.and_eq_true, Bool.or_eq_true, decide_eq_true_eq]
  exact ⟨fun ⟨⟨⟨⟨⟨h1, h2⟩, h3⟩, h4⟩, h5⟩, h6⟩ => ⟨h1, h2, h3, h4, h5, h6⟩,
    fun h => ⟨⟨⟨⟨⟨h.w_le, h.h_le⟩, h.cursor⟩, h.bpp⟩, h.done_le⟩, h.total_lt⟩⟩

theorem Xfer.legal_iff (x : Xfer) : x.legal = true ↔
    x.Ok ∧ x.blit &&& ~~~EnvReg.bitbltbuf.mask = 0 ∧ x.pos &&& ~~~EnvReg.trxpos.mask = 0 := by
  simp only [Xfer.legal, Bool.and_eq_true, Xfer.inRange_iff, decide_eq_true_eq, beq_iff_eq]
  constructor
  · rintro ⟨⟨⟨⟨hr, hm⟩, hb⟩, h1⟩, h2⟩
    refine ⟨?_, h1, h2⟩
    unfold Xfer.modeLegal at hm
    cases e : x.mode <;> simp only [e, Bool.and_eq_true, beq_iff_eq, decide_eq_true_eq] at hm
    · exact { range := hr, bits := hb, idle := fun _ => hm, size := (absurd e ·), count := (absurd e ·), bppWrite := by simp [e],
              bppRead := by simp [e], write := by simp [e], read := by simp [e] }
    · exact { range := hr, bits := hb, idle := by simp [e], size := fun _ => hm.1.1.1, count := fun _ => hm.2,
              bppWrite := fun _ => hm.1.1.2, bppRead := by simp [e], write := fun _ => hm.1.2, read := by simp [e] }
    · exact { range := hr, bits := hb, idle := by simp [e], size := fun _ => hm.1.1.1, count := fun _ => hm.2,
              bppWrite := by simp [e], bppRead := fun _ => hm.1.1.2, write := by simp [e], read := fun _ => hm.1.2 }
  · rintro ⟨h, h1, h2⟩
    refine ⟨⟨⟨⟨h.range, ?_⟩, h.bits⟩, h1⟩, h2⟩
    unfold Xfer.modeLegal
    cases e : x.mode <;> simp only [Bool.and_eq_true, beq_iff_eq, decide_eq_true_eq]
    · exact h.idle e
    · exact ⟨⟨⟨h.size (by simp [e]), h.bppWrite e⟩, h.write e⟩, h.count (by simp [e])⟩
    · exact ⟨⟨⟨h.size (by simp [e]), h.bppRead e⟩, h.read e⟩, h.count (by simp [e])⟩

theorem Image.legal_iff (cfg : Cfg) (b : Image) : b.legal cfg = true ↔ b.Ok cfg := by
  simp only [Image.legal, Image.inRange, Bool.and_eq_true, Bool.not_eq_true', Env.legal_iff, Ctx.legal_iff, VertexQueue.legal_iff,
    VertexQueue.between_iff, Window.legal_iff, Xfer.legal_iff]
  constructor
  · rintro ⟨⟨⟨⟨⟨⟨⟨⟨he, h0⟩, h1⟩, hq⟩, hw⟩, hx, hbl, hp⟩, hb⟩, hv⟩, hi⟩
    exact ⟨⟨he, h0, h1, hbl, hp⟩, hq, hb, ⟨hv, hi⟩, hw, hx⟩
  · intro h
    exact ⟨⟨⟨⟨⟨⟨⟨⟨h.reserved.env, h.reserved.ctx0⟩, h.reserved.ctx1⟩, h.cursors⟩, h.win⟩, h.xfer, h.reserved.blit, h.reserved.pos⟩, h.between⟩,
      h.fits.verts⟩, h.fits.indices⟩

/-! ## The round trip -/

theorem Image.inRange_of_legal {cfg : Cfg} {b : Image} (h : b.legal cfg = true) : b.inRange = true := by
  simp only [Image.legal, Bool.and_eq_true] at h
  exact h.1.1.1

/-- The round trip of a save-state. -/
theorem thawed_frozen {cfg : Cfg} {b : Image} (h : b.Ok cfg) : thawed cfg (frozen b) = some b := by
  have h := (Image.legal_iff cfg b).2 h
  rw [thawed, frozen, SnapshotFormat.write, Config.snapshotFormat.law b (Image.inRange_of_legal h)]
  simp [Option.filter, h]

/-- Whatever the bytes, Defrost gives only images of states the spec allows. -/
theorem thawed_ok {cfg : Cfg} {blob : Blob} {b : Image} (h : thawed cfg blob = some b) : b.Ok cfg :=
  (Image.legal_iff cfg b).1 (Option.filter_eq_some_iff.1 h).2

/-- Different images freeze to different bytes. -/
theorem frozen_injective {cfg : Cfg} {a b : Image} (ha : a.Ok cfg) (hb : b.Ok cfg) (h : frozen a = frozen b) : a = b := by
  have := congrArg (thawed cfg) h
  rw [thawed_frozen ha, thawed_frozen hb] at this
  exact Option.some.inj this

end Sys2Proof.Machine
end

