-- ==== Sys2Proof/Laws/Write.lean ====
section
/-! SUPPORT. The register writes, each with its flush said once (41_register_dispatch R222), and that stored values have no reserved
bit. -/

namespace Sys2Proof.Machine

theorem flush_ibuf (s : State) : (flush s).vq.ibuf = [] := by
  have h := flush_not_pending s
  simpa [State.pending] using h

/-- A context write is a store after at most one flush. -/
theorem caWriteCtx_eq (r : CtxReg) (c : CtxId) (v : Word64) (s : State) : caWriteCtx r c v s =
    setCtxReg r c (r.stored v) (if r.stored v ≠ (s.ctx c).get r ∧ s.pending = true ∧ c = s.actx then flush s else s) := by
  unfold caWriteCtx
  by_cases hp : s.pending = true
  · simp only [hp, true_and]; split <;> next h => simp [h]
  · have := flush_of_not_pending (Bool.eq_false_iff.mpr hp)
    simp [hp, this]

/-- An environment write is a store after at most one flush. -/
theorem caWriteEnv_eq (r : EnvReg) (v : Word64) (s : State) : caWriteEnv r v s =
    setEnv r (r.stored v) (if r.stored v ≠ s.env.get r ∧ s.pending = true then flush s else s) := by
  unfold caWriteEnv
  by_cases hp : s.pending = true
  · split <;> simp_all
  · have := flush_of_not_pending (Bool.eq_false_iff.mpr hp)
    simp [hp, this]

/-- A store of the value a register holds changes nothing. -/
theorem setCtxReg_same (r : CtxReg) (c : CtxId) (s : State) : setCtxReg r c ((s.ctx c).get r) s = s := by
  unfold setCtxReg
  rw [Ctx.set_get_self]
  cases c <;> rfl

theorem setEnv_same (r : EnvReg) (s : State) : setEnv r (s.env.get r) s = s := by
  unfold setEnv
  rw [Env.set_get_self]

/-! ## Stored values have no reserved bit (10_state R36) -/

theorem EnvReg.stored_clear (r : EnvReg) (v : Word64) : r.stored v &&& ~~~r.mask = 0 := by
  unfold EnvReg.stored
  rw [BitVec.and_assoc]; simp

theorem CtxReg.stored_clear (r : CtxReg) (v : Word64) : r.stored v &&& ~~~r.mask = 0 := by
  unfold CtxReg.stored
  rw [BitVec.and_assoc]; simp

theorem Env.reservedClear_set {e : Env} (h : e.reservedClear) (r : EnvReg) {v : Word64} (hv : v &&& ~~~r.mask = 0) :
    (e.set r v).reservedClear := by
  intro q
  by_cases hq : q = r
  · subst hq; rw [Env.get_set_same]; exact hv
  · rw [Env.get_set_ne _ hq]; exact h q

theorem Ctx.reservedClear_set {c : Ctx} (h : c.reservedClear) (r : CtxReg) {v : Word64} (hv : v &&& ~~~r.mask = 0) :
    (c.set r v).reservedClear := by
  intro q
  by_cases hq : q = r
  · subst hq; rw [Ctx.get_set_same]; exact hv
  · rw [Ctx.get_set_ne _ hq]; exact h q

/-! ## Transfer data keeps the latched registers (44_transfer R371) -/

theorem Xfer.finishIfDone_latched (x : Xfer) : x.finishIfDone.blit = x.blit ∧ x.finishIfDone.pos = x.pos := by
  unfold Xfer.finishIfDone; split <;> exact ⟨rfl, rfl⟩

theorem commitPixel_latched (v : BitVec 32) (s : State) :
    (commitPixel v s).xfer.blit = s.xfer.blit ∧ (commitPixel v s).xfer.pos = s.xfer.pos := by
  rw [commitPixel_xfer]; split <;> simp [advance_blit, advance_pos]

theorem commitLoop_latched (k : Nat) (s : State) (b : Bool) :
    (commitLoop k (s, b)).1.xfer.blit = s.xfer.blit ∧ (commitLoop k (s, b)).1.xfer.pos = s.xfer.pos := by
  induction k generalizing s b with
  | zero => exact ⟨rfl, rfl⟩
  | succ k ih =>
    unfold commitLoop
    split
    · have h := ih { commitPixel s.xfer.pixelValue s with
        xfer := (commitPixel s.xfer.pixelValue s).xfer.dropBits s.xfer.bpp } true
      have h2 := commitPixel_latched s.xfer.pixelValue s
      exact ⟨h.1.trans h2.1, h.2.trans h2.2⟩
    · exact ⟨rfl, rfl⟩

theorem xferByte_latched (sw : State × Bool) (b : Byte) :
    (xferByte sw b).1.xfer.blit = sw.1.xfer.blit ∧ (xferByte sw b).1.xfer.pos = sw.1.xfer.pos := by
  unfold xferByte
  split
  · have h := commitLoop_latched (sw.1.xfer.pcount + 8) { sw.1 with xfer := sw.1.xfer.takeByte b } sw.2
    have h2 := Xfer.finishIfDone_latched
      (commitLoop (sw.1.xfer.pcount + 8) ({ sw.1 with xfer := sw.1.xfer.takeByte b }, sw.2)).1.xfer
    exact ⟨h2.1.trans h.1, h2.2.trans h.2⟩
  · unfold dropByte; split <;> exact ⟨rfl, rfl⟩

theorem xferData_latched (bs : List Byte) (s : State) :
    (xferData bs s).xfer.blit = s.xfer.blit ∧ (xferData bs s).xfer.pos = s.xfer.pos := by
  have h : ∀ sw : State × Bool,
      (bs.foldl xferByte sw).1.xfer.blit = sw.1.xfer.blit ∧ (bs.foldl xferByte sw).1.xfer.pos = sw.1.xfer.pos := by
    induction bs with
    | nil => exact fun _ => ⟨rfl, rfl⟩
    | cons b t ih =>
      intro sw
      have h := ih (xferByte sw b)
      have h2 := xferByte_latched sw b
      exact ⟨h.1.trans h2.1, h.2.trans h2.2⟩
  unfold xferData; dsimp only; split <;> exact h (s, false)

end Sys2Proof.Machine
end

