-- ==== Sys2Proof/Laws/Step.lean ====
section
/-! SUPPORT. What a step can do, said once: the cases of `step`, and what follows an instruction. -/

namespace Sys2Proof.Machine

/-- What follows an instruction touches the paths and the feed call only. -/
def SameButParser (s t : State) : Prop :=
  t = { s with path0 := t.path0, path1 := t.path1, path2 := t.path2, path3 := t.path3, feed := t.feed }

theorem SameButParser.refl (s : State) : SameButParser s s := rfl

theorem SameButParser.trans {s t u : State} (h : SameButParser s t) (h' : SameButParser t u) : SameButParser s u := by
  unfold SameButParser at *
  rw [h] at h'
  exact h'

theorem setPath_parser (s : State) (p : PathId) (v : PathState) : SameButParser s (s.setPath p v) := by cases p <;> rfl

theorem endFeed_parser (s : State) : SameButParser s (endFeed s) := rfl

theorem nextQword_parser (s : State) : SameButParser s (nextQword s) := by
  unfold nextQword eopCheck
  split <;> rfl

theorem advance_parser (c : UnitCtx) (s : State) : SameButParser s (advance c s) := by
  unfold advance
  split
  · exact (setPath_parser _ _ _).trans (nextQword_parser _)
  · dsimp only
    split
    · exact (setPath_parser _ _ _).trans (nextQword_parser _)
    · exact (setPath_parser s _ _).trans rfl
  · exact nextQword_parser _

theorem finishUnit_parser (c : UnitCtx) (s : State) : SameButParser s (finishUnit c s) := by
  unfold finishUnit
  split
  · exact .refl s
  · split
    · exact (advance_parser c s).trans (endFeed_parser _)
    · exact advance_parser c s

/-- The cases of a step that answers a next state. -/
inductive StepCase (s : State) : State → Prop where
  | stuckPower (rest : List HostCall) : s.stuck = true → s.calls = .powerOn :: rest → StepCase s (powerOn { s with calls := rest })
  | stuckDrop (c : HostCall) (rest : List HostCall) : s.stuck = true → s.calls = c :: rest → StepCase s { s with calls := rest }
  | unit (t : State) (q : Qword) (rest : List Qword) : s.stuck = false → s.feed.qwords = q :: rest →
      exec (decode (fetchUnit s q)) s = .next t → Effect s t → StepCase s (finishUnit (unitCtx s) t)
  | call (c : HostCall) (rest : List HostCall) : s.stuck = false → s.feed.qwords = [] → s.calls = c :: rest →
      StepCase s (hostCall c { s with calls := rest })
  | idle : s.stuck = false → s.feed.qwords = [] → s.calls = [] → StepCase s s

theorem step_cases {s t : State} (h : step s = .next t) : StepCase s t := by
  unfold step at h
  split at h
  · next hs =>
    unfold stuckStep at h
    split at h
    · next c rest hc =>
      injection h with h; subst h
      cases c <;> first | exact .stuckPower rest hs hc | exact .stuckDrop _ rest hs hc
    · next hc =>
      cases hf : s.fault <;> cases hr : s.refused <;> simp [hf, hr] at h
      simp [State.stuck, hf, hr] at hs
  · next hs =>
    have hs : s.stuck = false := Bool.eq_false_iff.mpr hs
    split at h
    · next q rest hq =>
      obtain ⟨u, hu, he⟩ := exec_effect (decode (fetchUnit s q)) s
      rw [unitStep, hu] at h
      injection h with h; subst h
      exact .unit u q rest hs hq hu he
    · next hq =>
      unfold callStep at h
      split at h
      · next c rest hc => injection h with h; subst h; exact .call c rest hs hq hc
      · next hc => injection h with h; subst h; exact .idle hs hq hc

end Sys2Proof.Machine
end

