-- ==== Sys2Proof/Tests/Slice0.lean ====
section
/-! SUPPORT. The model's own tests: the well-formedness check, the decoding of a word of every row, single steps with the results of
95_test_vectors and of the rules' examples, and a witness for the hypotheses of every statement that has some. -/

namespace Sys2Proof.Machine.Tests

open Sys2Proof Sys2Proof.Machine

/-! ## Well-formedness: the one check, refused and passed at the edges of the reserved ranges (30_encoding R141) -/

theorem test_wellFormed_refuses :
    [0x00#7, 0x0A#7, 0x0D#7, 0x14#7, 0x22#7, 0x34#7, 0x3B#7, 0x3F#7, 0x54#7, 0x60#7, 0x62#7].all
      (fun a => (Instr.packedAd a 0).wellFormed = false) = true := by decide

theorem test_wellFormed_passes :
    [0x0B#7, 0x0E#7, 0x13#7, 0x1D#7, 0x21#7, 0x23#7, 0x33#7, 0x38#7, 0x3A#7, 0x3C#7, 0x3E#7, 0x55#7, 0x5F#7, 0x63#7, 0x7F#7].all
      (fun a => (Instr.packedAd a 0).wellFormed = true) = true := by decide

/-! ## Decoding: a word of every row, written from the spec's encodings (30_encoding R110, R120, R121, R140, R151) -/

/-- The four formats: P1-6, DEC7, P3's IMAGE tag shape and DEC13 (95_test_vectors); the data of IMAGE and IMAGE2 (R117, R118). -/
theorem test_decode_tags :
    decode ⟨.tag, 0x00000000000005123000000000008003#128⟩ =
      .giftagPacked { nloop := 3, eop := true, ignored := 0x0, pre := false, prim := 0x0, nreg := 3, regs := 0x512 } ∧
    decode ⟨.tag, 0x00000000000000001401C00000000001#128⟩ =
      .giftagReglist { nloop := 1, eop := false, ignored := 0x0, pre := true, prim := 0x3, nreg := 1, regs := 0x0 } ∧
    decode ⟨.tag, 0x00000000000000000800000000000002#128⟩ =
      .giftagImage (.tag { nloop := 2, eop := false, ignored := 0x0, pre := false, prim := 0x0, nreg := 0, regs := 0x0 }) ∧
    decode ⟨.tag, 0x00000000000000000C00000000000001#128⟩ =
      .giftagImage2 (.tag { nloop := 1, eop := false, ignored := 0x0, pre := false, prim := 0x0, nreg := 0, regs := 0x0 }) ∧
    decode ⟨.image, 0x44444444333333332222222211111111#128⟩ = .giftagImage (.data 0x44444444333333332222222211111111#128) ∧
    decode ⟨.image2, 0x000000000000000000000000AABBCCDD#128⟩ = .giftagImage2 (.data 0xAABBCCDD#128) := by
  decide

/-- Descriptors 0x0 to 0x3 and 0xA: DEC9 and the examples of 40_gif_decoder R180 to R183, R190. -/
theorem test_decode_packed_attributes :
    decode ⟨.packed 0x0, 0xFFFFFFFFFFFFFFFFFFFFFFFFFFFFF804#128⟩ = .packedPrim 4 ∧
    decode ⟨.packed 0x1, 0x00000004000000030000000200000001#128⟩ = .packedRgba 1 2 3 4 ∧
    decode ⟨.packed 0x2, 0x00000000400000003F0000003E000000#128⟩ = .packedStq 0x3E000000 0x3F000000 0x40000000 ∧
    decode ⟨.packed 0x3, 0x00000000000000000000020000000100#128⟩ = .packedUv 0x100 0x200 ∧
    decode ⟨.packed 0xA, 0x000007F0000000000000000000000000#128⟩ = .packedFog 0x7F := by
  decide

/-- Descriptors 0x4, 0x5, 0xC and 0xD: Z of XYZF at 91:68, F at 107:100, ADC at 111 (R121). -/
theorem test_decode_packed_positions :
    decode ⟨.packed 0x4, 0x00008070000000500000010000000200#128⟩ = .packedXyzf2 0x200 0x100 5 7 true ∧
    decode ⟨.packed 0x5, 0x00000000FFFFFFFF0000010000000200#128⟩ = .packedXyz2 0x200 0x100 0xFFFFFFFF false ∧
    decode ⟨.packed 0xC, 0x00008070000000500000010000000200#128⟩ = .packedXyzf3 0x200 0x100 5 7 ∧
    decode ⟨.packed 0xD, 0x00008000000000090000010000000200#128⟩ = .packedXyz3 0x200 0x100 9 := by
  decide

/-- Descriptors 0x6 to 0x9, 0xB, 0xE and 0xF; bits above the data are ignored. -/
theorem test_decode_packed_others :
    decode ⟨.packed 0x6, 0xFFFFFFFFFFFFFFFF0123456789ABCDEF#128⟩ = .packedTex0_1 0x0123456789ABCDEF ∧
    decode ⟨.packed 0x7, 0xFFFFFFFFFFFFFFFF0123456789ABCDEF#128⟩ = .packedTex0_2 0x0123456789ABCDEF ∧
    decode ⟨.packed 0x8, 0xFFFFFFFFFFFFFFFF0123456789ABCDEF#128⟩ = .packedClamp_1 0x0123456789ABCDEF ∧
    decode ⟨.packed 0x9, 0xFFFFFFFFFFFFFFFF0123456789ABCDEF#128⟩ = .packedClamp_2 0x0123456789ABCDEF ∧
    decode ⟨.packed 0xB, 0x00000000000000000000000000000001#128⟩ = .packedReservedB ∧
    decode ⟨.packed 0xE, 0x000000000000007F00000000DEADBEEF#128⟩ = .packedAd 0x7F 0xDEADBEEF ∧
    decode ⟨.packed 0xF, 0x00000000000000000000000000000001#128⟩ = .packedNop := by
  decide

/-- REGLIST descriptors 0x0 to 0x7 (R120): the value in the low half. -/
theorem test_decode_reglist_1 :
    decode ⟨.reglist 0x0, 0x00000000000000000123456789ABCDEF#128⟩ = .reglistPrim 0x0123456789ABCDEF ∧
    decode ⟨.reglist 0x1, 0x00000000000000000123456789ABCDEF#128⟩ = .reglistRgbaq 0x0123456789ABCDEF ∧
    decode ⟨.reglist 0x2, 0x00000000000000000123456789ABCDEF#128⟩ = .reglistSt 0x0123456789ABCDEF ∧
    decode ⟨.reglist 0x3, 0x00000000000000000123456789ABCDEF#128⟩ = .reglistUv 0x0123456789ABCDEF ∧
    decode ⟨.reglist 0x4, 0x00000000000000000123456789ABCDEF#128⟩ = .reglistXyzf2 0x0123456789ABCDEF ∧
    decode ⟨.reglist 0x5, 0x00000000000000000123456789ABCDEF#128⟩ = .reglistXyz2 0x0123456789ABCDEF ∧
    decode ⟨.reglist 0x6, 0x00000000000000000123456789ABCDEF#128⟩ = .reglistTex0_1 0x0123456789ABCDEF ∧
    decode ⟨.reglist 0x7, 0x00000000000000000123456789ABCDEF#128⟩ = .reglistTex0_2 0x0123456789ABCDEF := by
  decide

/-- REGLIST descriptors 0x8 to 0xF (R120): the value in the low half. -/
theorem test_decode_reglist_2 :
    decode ⟨.reglist 0x8, 0x00000000000000000123456789ABCDEF#128⟩ = .reglistClamp_1 0x0123456789ABCDEF ∧
    decode ⟨.reglist 0x9, 0x00000000000000000123456789ABCDEF#128⟩ = .reglistClamp_2 0x0123456789ABCDEF ∧
    decode ⟨.reglist 0xA, 0x00000000000000000123456789ABCDEF#128⟩ = .reglistFog 0x0123456789ABCDEF ∧
    decode ⟨.reglist 0xB, 0x00000000000000000123456789ABCDEF#128⟩ = .reglistUnassigned0B 0x0123456789ABCDEF ∧
    decode ⟨.reglist 0xC, 0x00000000000000000123456789ABCDEF#128⟩ = .reglistXyzf3 0x0123456789ABCDEF ∧
    decode ⟨.reglist 0xD, 0x00000000000000000123456789ABCDEF#128⟩ = .reglistXyz3 0x0123456789ABCDEF ∧
    decode ⟨.reglist 0xE, 0x00000000000000000123456789ABCDEF#128⟩ = .reglistAd 0x0123456789ABCDEF ∧
    decode ⟨.reglist 0xF, 0x00000000000000000123456789ABCDEF#128⟩ = .reglistNop 0x0123456789ABCDEF := by
  decide

/-- A+D addresses 0x00 to 0x08 (R140): ADDR at 70:64, DATA at 63:0, the bits above ignored. -/
theorem test_decode_ad_1 :
    decode ⟨.packed 0xE, 0x00000000ABCDEF800123456789ABCDEF#128⟩ = .adPrim 0x0123456789ABCDEF ∧
    decode ⟨.packed 0xE, 0x00000000ABCDEF810123456789ABCDEF#128⟩ = .adRgbaq 0x0123456789ABCDEF ∧
    decode ⟨.packed 0xE, 0x00000000ABCDEF820123456789ABCDEF#128⟩ = .adSt 0x0123456789ABCDEF ∧
    decode ⟨.packed 0xE, 0x00000000ABCDEF830123456789ABCDEF#128⟩ = .adUv 0x0123456789ABCDEF ∧
    decode ⟨.packed 0xE, 0x00000000ABCDEF840123456789ABCDEF#128⟩ = .adXyzf2 0x0123456789ABCDEF ∧
    decode ⟨.packed 0xE, 0x00000000ABCDEF850123456789ABCDEF#128⟩ = .adXyz2 0x0123456789ABCDEF ∧
    decode ⟨.packed 0xE, 0x00000000ABCDEF860123456789ABCDEF#128⟩ = .adTex0_1 0x0123456789ABCDEF ∧
    decode ⟨.packed 0xE, 0x00000000ABCDEF870123456789ABCDEF#128⟩ = .adTex0_2 0x0123456789ABCDEF ∧
    decode ⟨.packed 0xE, 0x00000000ABCDEF880123456789ABCDEF#128⟩ = .adClamp_1 0x0123456789ABCDEF := by
  decide

/-- A+D addresses 0x09 to 0x18 (R140): ADDR at 70:64, DATA at 63:0, the bits above ignored. -/
theorem test_decode_ad_2 :
    decode ⟨.packed 0xE, 0x00000000ABCDEF890123456789ABCDEF#128⟩ = .adClamp_2 0x0123456789ABCDEF ∧
    decode ⟨.packed 0xE, 0x00000000ABCDEF8A0123456789ABCDEF#128⟩ = .adFog 0x0123456789ABCDEF ∧
    decode ⟨.packed 0xE, 0x00000000ABCDEF8C0123456789ABCDEF#128⟩ = .adXyzf3 0x0123456789ABCDEF ∧
    decode ⟨.packed 0xE, 0x00000000ABCDEF8D0123456789ABCDEF#128⟩ = .adXyz3 0x0123456789ABCDEF ∧
    decode ⟨.packed 0xE, 0x00000000ABCDEF940123456789ABCDEF#128⟩ = .adTex1_1 0x0123456789ABCDEF ∧
    decode ⟨.packed 0xE, 0x00000000ABCDEF950123456789ABCDEF#128⟩ = .adTex1_2 0x0123456789ABCDEF ∧
    decode ⟨.packed 0xE, 0x00000000ABCDEF960123456789ABCDEF#128⟩ = .adTex2_1 0x0123456789ABCDEF ∧
    decode ⟨.packed 0xE, 0x00000000ABCDEF970123456789ABCDEF#128⟩ = .adTex2_2 0x0123456789ABCDEF ∧
    decode ⟨.packed 0xE, 0x00000000ABCDEF980123456789ABCDEF#128⟩ = .adXyoffset_1 0x0123456789ABCDEF := by
  decide

/-- A+D addresses 0x19 to 0x37 (R140): ADDR at 70:64, DATA at 63:0, the bits above ignored. -/
theorem test_decode_ad_3 :
    decode ⟨.packed 0xE, 0x00000000ABCDEF990123456789ABCDEF#128⟩ = .adXyoffset_2 0x0123456789ABCDEF ∧
    decode ⟨.packed 0xE, 0x00000000ABCDEF9A0123456789ABCDEF#128⟩ = .adPrmodecont 0x0123456789ABCDEF ∧
    decode ⟨.packed 0xE, 0x00000000ABCDEF9B0123456789ABCDEF#128⟩ = .adPrmode 0x0123456789ABCDEF ∧
    decode ⟨.packed 0xE, 0x00000000ABCDEF9C0123456789ABCDEF#128⟩ = .adTexclut 0x0123456789ABCDEF ∧
    decode ⟨.packed 0xE, 0x00000000ABCDEFA20123456789ABCDEF#128⟩ = .adScanmsk 0x0123456789ABCDEF ∧
    decode ⟨.packed 0xE, 0x00000000ABCDEFB40123456789ABCDEF#128⟩ = .adMiptbp1_1 0x0123456789ABCDEF ∧
    decode ⟨.packed 0xE, 0x00000000ABCDEFB50123456789ABCDEF#128⟩ = .adMiptbp1_2 0x0123456789ABCDEF ∧
    decode ⟨.packed 0xE, 0x00000000ABCDEFB60123456789ABCDEF#128⟩ = .adMiptbp2_1 0x0123456789ABCDEF ∧
    decode ⟨.packed 0xE, 0x00000000ABCDEFB70123456789ABCDEF#128⟩ = .adMiptbp2_2 0x0123456789ABCDEF := by
  decide

/-- A+D addresses 0x3B to 0x45 (R140): ADDR at 70:64, DATA at 63:0, the bits above ignored. -/
theorem test_decode_ad_4 :
    decode ⟨.packed 0xE, 0x00000000ABCDEFBB0123456789ABCDEF#128⟩ = .adTexa 0x0123456789ABCDEF ∧
    decode ⟨.packed 0xE, 0x00000000ABCDEFBD0123456789ABCDEF#128⟩ = .adFogcol 0x0123456789ABCDEF ∧
    decode ⟨.packed 0xE, 0x00000000ABCDEFBF0123456789ABCDEF#128⟩ = .adTexflush 0x0123456789ABCDEF ∧
    decode ⟨.packed 0xE, 0x00000000ABCDEFC00123456789ABCDEF#128⟩ = .adScissor_1 0x0123456789ABCDEF ∧
    decode ⟨.packed 0xE, 0x00000000ABCDEFC10123456789ABCDEF#128⟩ = .adScissor_2 0x0123456789ABCDEF ∧
    decode ⟨.packed 0xE, 0x00000000ABCDEFC20123456789ABCDEF#128⟩ = .adAlpha_1 0x0123456789ABCDEF ∧
    decode ⟨.packed 0xE, 0x00000000ABCDEFC30123456789ABCDEF#128⟩ = .adAlpha_2 0x0123456789ABCDEF ∧
    decode ⟨.packed 0xE, 0x00000000ABCDEFC40123456789ABCDEF#128⟩ = .adDimx 0x0123456789ABCDEF ∧
    decode ⟨.packed 0xE, 0x00000000ABCDEFC50123456789ABCDEF#128⟩ = .adDthe 0x0123456789ABCDEF := by
  decide

/-- A+D addresses 0x46 to 0x4E (R140): ADDR at 70:64, DATA at 63:0, the bits above ignored. -/
theorem test_decode_ad_5 :
    decode ⟨.packed 0xE, 0x00000000ABCDEFC60123456789ABCDEF#128⟩ = .adColclamp 0x0123456789ABCDEF ∧
    decode ⟨.packed 0xE, 0x00000000ABCDEFC70123456789ABCDEF#128⟩ = .adTest_1 0x0123456789ABCDEF ∧
    decode ⟨.packed 0xE, 0x00000000ABCDEFC80123456789ABCDEF#128⟩ = .adTest_2 0x0123456789ABCDEF ∧
    decode ⟨.packed 0xE, 0x00000000ABCDEFC90123456789ABCDEF#128⟩ = .adPabe 0x0123456789ABCDEF ∧
    decode ⟨.packed 0xE, 0x00000000ABCDEFCA0123456789ABCDEF#128⟩ = .adFba_1 0x0123456789ABCDEF ∧
    decode ⟨.packed 0xE, 0x00000000ABCDEFCB0123456789ABCDEF#128⟩ = .adFba_2 0x0123456789ABCDEF ∧
    decode ⟨.packed 0xE, 0x00000000ABCDEFCC0123456789ABCDEF#128⟩ = .adFrame_1 0x0123456789ABCDEF ∧
    decode ⟨.packed 0xE, 0x00000000ABCDEFCD0123456789ABCDEF#128⟩ = .adFrame_2 0x0123456789ABCDEF ∧
    decode ⟨.packed 0xE, 0x00000000ABCDEFCE0123456789ABCDEF#128⟩ = .adZbuf_1 0x0123456789ABCDEF := by
  decide

/-- A+D addresses 0x4F to 0x62 (R140): ADDR at 70:64, DATA at 63:0, the bits above ignored. -/
theorem test_decode_ad_6 :
    decode ⟨.packed 0xE, 0x00000000ABCDEFCF0123456789ABCDEF#128⟩ = .adZbuf_2 0x0123456789ABCDEF ∧
    decode ⟨.packed 0xE, 0x00000000ABCDEFD00123456789ABCDEF#128⟩ = .adBitbltbuf 0x0123456789ABCDEF ∧
    decode ⟨.packed 0xE, 0x00000000ABCDEFD10123456789ABCDEF#128⟩ = .adTrxpos 0x0123456789ABCDEF ∧
    decode ⟨.packed 0xE, 0x00000000ABCDEFD20123456789ABCDEF#128⟩ = .adTrxreg 0x0123456789ABCDEF ∧
    decode ⟨.packed 0xE, 0x00000000ABCDEFD30123456789ABCDEF#128⟩ = .adTrxdir 0x0123456789ABCDEF ∧
    decode ⟨.packed 0xE, 0x00000000ABCDEFD40123456789ABCDEF#128⟩ = .adHwreg 0x0123456789ABCDEF ∧
    decode ⟨.packed 0xE, 0x00000000ABCDEFE00123456789ABCDEF#128⟩ = .adSignal 0x0123456789ABCDEF ∧
    decode ⟨.packed 0xE, 0x00000000ABCDEFE10123456789ABCDEF#128⟩ = .adFinish 0x0123456789ABCDEF ∧
    decode ⟨.packed 0xE, 0x00000000ABCDEFE20123456789ABCDEF#128⟩ = .adLabel 0x0123456789ABCDEF := by
  decide
/-- Any number of bytes but 16 is rejected by name (20_memory R85); the example bytes of 95_test_vectors. -/
theorem test_decode_bytes :
    (decodeBytes .tag [0x02, 0, 0, 0, 0, 0, 0, 0x10, 0x0E, 0, 0, 0, 0, 0, 0, 0]).toOption =
      some (.giftagPacked { nloop := 2, eop := false, ignored := 0, pre := false, prim := 0, nreg := 1, regs := 0xE }) ∧
    (decodeBytes .tag [0x02]).toOption = none ∧ (decodeBytes .image []).toOption = none := by
  decide

/-- The words of the opcode table (log 14). -/
theorem test_table_words :
    decodeTableWord 64 0x0400000000000000 =
      some (.giftagReglist { nloop := 0, eop := false, ignored := 0, pre := false, prim := 0, nreg := 0, regs := 0 }) ∧
    decodeTableWord 8 0x40 = some (.adScissor_1 0) ∧ decodeTableWord 4 0x1 = some (.packedRgba 0 0 0 0) ∧
    decodeTableWord 8 0x0B = some .packedReservedB := by
  decide

/-- The masks of the stored forms are the defined fields of 10_state R55 to R78. -/
theorem test_env_masks (r : EnvReg) : ∀ i < 64, r.mask.getLsbD i = inFields r.fieldTable i := by cases r <;> decide
theorem test_ctx_masks (r : CtxReg) : ∀ i < 64, r.mask.getLsbD i = inFields r.fieldTable i := by cases r <;> decide
theorem test_tex2_mask : ∀ i < 64, tex2Mask.getLsbD i = inFields tex2Fields i := by decide

/-! ## Small states -/

/-- The state an outcome goes on with. -/
def nextOf (o : Host.Outcome State Fault Refusal) : Option State :=
  match o with
  | .next t => some t
  | .fault _ => none
  | .refused _ => none

/-- What exec and step go on with, seen through a function. -/
def after {α : Type} (i : Instr) (s : State) (f : State → α) : Option α := (nextOf (exec i s)).map f
def stepped {α : Type} (s : State) (f : State → α) : Option α := (nextOf (step s)).map f

/-- The setup state of 95_test_vectors, as far as its registers go, with a renderer that answers ok and stores nothing. -/
def setup : State :=
  { State.reset with
    ctx0 := { Ctx.zero with scissor := 0x01BF0000027F0000, xyoffset := 0x0000800000008000 }
    replies := [⟨true, []⟩] }

/-- A vertex at a position in 1/16 pixel relative to the setup state's offset. -/
def vtx (sx sy : Nat) : Vertex := ⟨BitVec.ofNat 16 (0x8000 + sx), BitVec.ofNat 16 (0x8000 + sy), 0, .zero⟩

/-- The XYZ2 value of that position (10_state R79). -/
def posn (sx sy : Nat) : Word64 := BitVec.ofNat 64 ((0x8000 + sy) * 65536 + (0x8000 + sx))

def xy (sx sy : Int) : XY := ⟨sx, sy⟩

/-- The setup state under a PRIM value, with a queue and a window. -/
def drawing (prim : Word64) (q : VertexQueue) (w : Window) : State := { setup with env := { Env.zero with prim := prim }, vq := q, win := w }

/-- A triangle list with one triangle accepted and a fourth vertex buffered (REG4, FL2). -/
def pendingList : State :=
  drawing 3 ⟨[vtx 0 0, vtx 256 0, vtx 0 256, vtx 256 256], 3, 3, [0, 1, 2]⟩ ⟨xy 0 0, xy 256 0, xy 0 256, xy 256 256, 0⟩

/-- BITBLTBUF with base 0, width 1 and the formats given; the registers of a w by h transfer with corner (x, 0) at its destination. -/
def blitOf (spsm dpsm : Nat) : Word64 := BitVec.ofNat 64 (spsm * 2 ^ 24 + dpsm * 2 ^ 56 + 0x0001000000010000)
def transfer (spsm dpsm w h x : Nat) : State :=
  { setup with env := { Env.zero with
      bitbltbuf := blitOf spsm dpsm, trxreg := BitVec.ofNat 64 (h * 2 ^ 32 + w), trxpos := BitVec.ofNat 64 (x * 2 ^ 32) } }

/-- The engine right after a Write or Read of `transfer` was armed. -/
def armed (mode : XferMode) (spsm dpsm w h bpp : Nat) : State :=
  { transfer spsm dpsm w h 0 with
    xfer := { Xfer.idle with mode := mode, blit := blitOf spsm dpsm, w := w, h := h, bpp := bpp, total := (w * h * bpp + 7) / 8 } }

/-- A block with a unit next on path 0, in a tag of the given low half, slots, iterations left and cursor. -/
def atUnit (lo regs : Nat) (nloop : BitVec 15) (reg : BitVec 4) (q : Qword) (rest : List Qword) : State :=
  { setup with path0 := ⟨BitVec.ofNat 128 (regs * 2 ^ 64 + lo), nloop, reg⟩, feed := ⟨.p0, q :: rest, false⟩ }

/-- A block with one host call next. -/
def atCall (c : HostCall) (s : State) : State := { s with calls := [c] }

/-! ## Steps of the decoder (95_test_vectors, Decoder) -/

/-- DEC1, DEC2: on path 0 an empty tag with EOP ends the call; on path 1 the next qword is still there. -/
theorem test_eop :
    stepped { setup with feed := ⟨.p0, [0x8000, 0x1234], false⟩ } (fun t => (t.path0.nloop, t.feed.qwords)) = some (0, []) ∧
    stepped { setup with feed := ⟨.p1, [0x8000, 0x1234], false⟩ } (fun t => (t.path1.nloop, t.feed.qwords)) = some (0, [0x1234]) := by
  decide

/-- DEC3: with NREG = 0 the slot cursor wraps after slot 15. -/
theorem test_nreg_zero :
    stepped (atUnit 0x0000000000000001 0xEEEEEEEEEEEEEEEE 1 14 0 [0]) (fun t => (t.path0.nloop, t.path0.reg)) = some (1, 15) ∧
    stepped (atUnit 0x0000000000000001 0xEEEEEEEEEEEEEEEE 1 15 0 [0]) (fun t => (t.path0.nloop, t.path0.reg)) = some (0, 0) := by
  decide

/-- DEC4, DEC5, DEC6: a partial qword is refused; so is a feed beside a path mid-tag; the same path resumes. -/
theorem test_transfer_checks :
    stepped (atCall (.transfer .p0 (List.replicate 15 0) 1) setup) (·.refused) = some (some .partialQword) ∧
    stepped (atCall (.transfer .p0 (List.replicate 16 0) 1) { setup with path1 := ⟨0x1000000000000002, 1, 0⟩ }) (·.refused) =
      some (some .pathInterleavedMidTag) ∧
    stepped (atCall (.transfer .p1 (3 :: List.replicate 15 0) 1) { setup with path1 := ⟨0x1000000000000002, 1, 0⟩ })
      (fun t => (t.refused, t.feed)) = some (none, ⟨.p1, [3], false⟩) := by
  decide

/-- DEC7: PRE of a REGLIST tag is ignored. -/
theorem test_pre_reglist :
    stepped { setup with feed := ⟨.p0, [0x1401C00000000001], false⟩ } (fun t => (t.env.prim, t.path0.nloop)) = some (0, 1) := by decide

/-- DEC8: the reserved descriptor under both policies; the slot is consumed. -/
theorem test_reserved_descriptor :
    stepped (atUnit 0x1000000000000001 0xB 1 0 7 []) (fun t => (t.refused, t.path0.nloop)) = some (none, 0) ∧
    stepped { atUnit 0x1000000000000001 0xB 1 0 7 [] with cfg := { Config.defaults with reservedDesc := .refuse } }
      (fun t => (t.refused, t.path0.nloop)) = some (some .reservedDescriptor, 0) := by
  decide

/-- DEC10, 40_gif_decoder R171: a tag with data sets the internal Q; PRE of a PACKED tag applies PRIM. -/
theorem test_tag_start :
    after (.giftagPacked { nloop := 1, eop := false, ignored := 0, pre := true, prim := 3, nreg := 1, regs := 0xE })
      { setup with qint := 0 } (fun t => (t.qint, t.env.prim, t.path0.nloop)) = some (0x3F800000, 3, 1) ∧
    after (.giftagImage (.tag { nloop := 0, eop := false, ignored := 0, pre := true, prim := 3, nreg := 1, regs := 0xE }))
      { setup with qint := 0 } (fun t => (t.qint, t.env.prim, t.path0.nloop)) = some (0, 0, 0) := by
  decide

/-- P5: the high half of a REGLIST qword follows the low half, but for the padding of a completed tag. -/
theorem test_reglist_halves :
    stepped (atUnit 0x3400000000008001 0x521 1 0 0x3F0000003F0000003F800000800000FF [9])
      (fun t => (t.vacc.r, t.vacc.a, t.feed.half, t.path0.reg)) = some (0xFF, 0x80, true, 1) ∧
    stepped (atUnit 0x3400000000000001 0x521 1 2 0xDEADBEEFDEADBEEF1234567880008000 [9])
      (fun t => (t.feed.half, t.feed.qwords, t.path0.nloop)) = some (false, [9], 0) := by
  decide

/-- DEC9 and the examples of R181 to R183, R190: the PACKED attributes. -/
theorem test_packed_attributes :
    after (.packedStq 0x3F000000 0x3F000000 0x40000000) setup (fun t => (t.vacc.s, t.vacc.t, t.vacc.q, t.qint)) =
      some (0x3F000000, 0x3F000000, 0, 0x40000000) ∧
    after (.packedRgba 1 2 3 4) { setup with qint := 0x40000000 } (·.vacc) = some { VAcc.zero with r := 1, g := 2, b := 3, a := 4, q := 0x40000000 } ∧
    after (.packedUv 0x100 0x200) setup (·.vacc) = some { VAcc.zero with u := 0x100, v := 0x200 } ∧
    after (.packedFog 0x7F) setup (·.vacc) = some { VAcc.zero with f := 0x7F } := by
  decide

/-- The examples of R231 to R233, R240: the same by A+D and REGLIST, with Q from the value. -/
theorem test_value_attributes :
    [Instr.adRgbaq 0x3F800000FF0000FF, .reglistRgbaq 0x3F800000FF0000FF].all (fun i =>
      after i { setup with qint := 5 } (fun t => (t.vacc, t.qint)) = some ({ VAcc.zero with r := 0xFF, a := 0xFF, q := 0x3F800000 }, 5)) = true ∧
    [Instr.adSt 0x3F0000003E000000, .reglistSt 0x3F0000003E000000].all (fun i =>
      after i setup (·.vacc) = some { VAcc.zero with s := 0x3E000000, t := 0x3F000000 }) = true ∧
    [Instr.adUv 0x00200010, .reglistUv 0x00200010].all (fun i => after i setup (·.vacc) = some { VAcc.zero with u := 0x10, v := 0x20 }) = true ∧
    [Instr.adFog 0x8000000000000000, .reglistFog 0x8000000000000000].all (fun i =>
      after i setup (·.vacc) = some { VAcc.zero with f := 0x80 }) = true := by
  decide

/-- REG9, REG16: units without effect. -/
theorem test_no_effect :
    [Instr.packedAd 0x7F 0xDEADBEEF, .packedAd 0x0B 1, .packedNop, .reglistAd 1, .reglistNop 1, .reglistUnassigned0B 1, .adTexflush 1,
      .adSignal 1, .adFinish 1, .adLabel 1].all (fun i => after i pendingList (fun t => t) = some pendingList) = true := by
  decide

/-! ## Register writes (95_test_vectors, Register dispatch); the stored values by hand from 10_state R55 to R78 -/

/-- All ones written to every context register of context 0 leave the defined bits. -/
theorem test_context_stores :
    (after (.adXyoffset_1 (-1)) setup (·.ctx0.xyoffset) = some 0x0000FFFF0000FFFF) ∧
    ([Instr.adTex0_1 (-1), .packedTex0_1 (-1), .reglistTex0_1 (-1)].all fun i => after i setup (·.ctx0.tex0) = some (-1)) = true ∧
    (after (.adTex1_1 (-1)) setup (·.ctx0.tex1) = some 0x00000FFF001803FD) ∧
    ([Instr.adClamp_1 (-1), .packedClamp_1 (-1), .reglistClamp_1 (-1)].all fun i =>
      after i setup (·.ctx0.clamp) = some 0x00000FFFFFFFFFFF) = true ∧
    (after (.adMiptbp1_1 (-1)) setup (·.ctx0.miptbp1) = some 0x0FFFFFFFFFFFFFFF) ∧
    (after (.adMiptbp2_1 (-1)) setup (·.ctx0.miptbp2) = some 0x0FFFFFFFFFFFFFFF) ∧
    (after (.adScissor_1 (-1)) setup (·.ctx0.scissor) = some 0x07FF07FF07FF07FF) ∧
    (after (.adAlpha_1 (-1)) setup (·.ctx0.alpha) = some 0x000000FF000000FF) ∧
    (after (.adTest_1 (-1)) setup (·.ctx0.test) = some 0x7FFFF) ∧ (after (.adFba_1 (-1)) setup (·.ctx0.fba) = some 1) ∧
    (after (.adFrame_1 (-1)) setup (·.ctx0.frame) = some 0xFFFFFFFF3F3F01FF) ∧
    (after (.adZbuf_1 (-1)) setup (·.ctx0.zbuf) = some 0x000000010F0001FF) := by
  decide

/-- The same for context 1, which leaves context 0 alone. -/
theorem test_context_1_stores :
    (after (.adXyoffset_2 (-1)) setup (fun t => (t.ctx1, t.ctx0)) = some ({ Ctx.zero with xyoffset := 0x0000FFFF0000FFFF }, setup.ctx0)) ∧
    ([Instr.adTex0_2 (-1), .packedTex0_2 (-1), .reglistTex0_2 (-1)].all fun i =>
      after i setup (·.ctx1) = some { Ctx.zero with tex0 := -1 }) = true ∧
    (after (.adTex1_2 (-1)) setup (·.ctx1) = some { Ctx.zero with tex1 := 0x00000FFF001803FD }) ∧
    ([Instr.adClamp_2 (-1), .packedClamp_2 (-1), .reglistClamp_2 (-1)].all fun i =>
      after i setup (·.ctx1) = some { Ctx.zero with clamp := 0x00000FFFFFFFFFFF }) = true ∧
    (after (.adMiptbp1_2 (-1)) setup (·.ctx1) = some { Ctx.zero with miptbp1 := 0x0FFFFFFFFFFFFFFF }) ∧
    (after (.adMiptbp2_2 (-1)) setup (·.ctx1) = some { Ctx.zero with miptbp2 := 0x0FFFFFFFFFFFFFFF }) ∧
    (after (.adScissor_2 (-1)) setup (·.ctx1) = some { Ctx.zero with scissor := 0x07FF07FF07FF07FF }) ∧
    (after (.adAlpha_2 (-1)) setup (·.ctx1) = some { Ctx.zero with alpha := 0x000000FF000000FF }) ∧
    (after (.adTest_2 (-1)) setup (·.ctx1) = some { Ctx.zero with test := 0x7FFFF }) ∧
    (after (.adFba_2 (-1)) setup (·.ctx1) = some { Ctx.zero with fba := 1 }) ∧
    (after (.adFrame_2 (-1)) setup (·.ctx1) = some { Ctx.zero with frame := 0xFFFFFFFF3F3F01FF }) ∧
    (after (.adZbuf_2 (-1)) setup (·.ctx1) = some { Ctx.zero with zbuf := 0x000000010F0001FF }) := by
  decide

/-- The environment registers. -/
theorem test_environment_stores :
    ([Instr.adPrim (-1), .reglistPrim (-1), .packedPrim (-1)].all fun i => after i setup (·.env.prim) = some 0x7FF) = true ∧
    (after (.adPrmodecont (-1)) setup (·.env.prmodecont) = some 1) ∧ (after (.adPrmode (-1)) setup (·.env.prmode) = some 0x7F8) ∧
    (after (.adTexclut (-1)) setup (·.env.texclut) = some 0x3FFFFF) ∧ (after (.adScanmsk (-1)) setup (·.env.scanmsk) = some 3) ∧
    (after (.adTexa (-1)) setup (·.env.texa) = some 0x000000FF000080FF) ∧ (after (.adFogcol (-1)) setup (·.env.fogcol) = some 0xFFFFFF) ∧
    (after (.adDimx (-1)) setup (·.env.dimx) = some 0x7777777777777777) ∧ (after (.adDthe (-1)) setup (·.env.dthe) = some 1) ∧
    (after (.adColclamp (-1)) setup (·.env.colclamp) = some 1) ∧ (after (.adPabe (-1)) setup (·.env.pabe) = some 1) ∧
    (after (.adBitbltbuf (-1)) setup (·.env.bitbltbuf) = some 0x3F3F3FFF3F3F3FFF) ∧
    (after (.adTrxpos (-1)) setup (·.env.trxpos) = some 0x1FFF07FF07FF07FF) ∧
    (after (.adTrxreg (-1)) setup (·.env.trxreg) = some 0x00000FFF00000FFF) ∧ (after (.adTrxdir (-1)) setup (·.env.trxdir) = some 3) := by
  decide

/-- REG1, REG2, REG3: the flush rule of a rewrite, of an inactive context and of an environment register. -/
theorem test_flush_rule :
    (after (.adAlpha_1 0) pendingList (fun t => (t.out, t.vq)) = some ([], pendingList.vq)) ∧
    (after (.adAlpha_2 0x44) pendingList (fun t => (t.out, t.ctx1.alpha)) = some ([], 0x44)) ∧
    (after (.adDthe 1) pendingList (fun t => (t.out, t.env.dthe)) =
      some ([.draw { env := { Env.zero with prim := 3 }, ctx := setup.ctx0, actx := .c0, attr := 0 }
        [vtx 0 0, vtx 256 0, vtx 0 256, vtx 256 256] [0, 1, 2] .triangle], 1)) := by
  decide

/-- REG4, REG5: a PRIM write that changes the class, and one that does not. -/
theorem test_prim_restart :
    (after (.adPrim 1) pendingList (fun t => (t.out.length, t.vq, t.env.prim)) = some (1, ⟨[], 0, 0, []⟩, 1)) ∧
    (after (.packedPrim 4) pendingList (fun t => (t.out.length, t.vq)) = some (0, ⟨[vtx 0 0, vtx 256 0, vtx 0 256], 3, 3, [0, 1, 2]⟩)) := by
  decide

/-- REG6, REG7: an attribute change flushes only with AC = 1. -/
theorem test_prim_attributes :
    (after (.reglistPrim 0x013) { pendingList with env := { pendingList.env with prmodecont := 1 } } (·.out.length) = some 1) ∧
    (after (.reglistPrim 0x013) pendingList (·.out.length) = some 0) := by
  decide

/-- REG8, REG12, REG15, REG14: TEX2, PRMODE, PRMODECONT and TRXDIR. -/
theorem test_special_writes :
    (after (.adTex2_1 0x0000000001400000) { setup with ctx0 := { setup.ctx0 with tex0 := 0x00000000000FFFFF } } (·.ctx0.tex0) =
      some 0x00000000014FFFFF) ∧
    (after (.adTex2_2 (-1)) setup (·.ctx1.tex0) = some 0xFFFFFFE003F00000) ∧
    (after (.adPrmode 0x200) pendingList (fun t => (t.out.length, t.actx)) = some (1, .c1)) ∧
    (after (.adPrmodecont 1) pendingList (fun t => (t.out.length, t.ac)) = some (1, true)) ∧
    (after (.adTrxdir 3) pendingList (fun t => (t.out.length, t.xfer.mode)) = some (1, .idle)) := by
  decide

/-! ## Kicks (95_test_vectors, Vertex kick) -/

/-- K1: the third kick of a triangle list, by every form without the skip flag; K1 skipped, by every form with it (R303). -/
theorem test_kick_forms :
    let s := drawing 3 ⟨[vtx 256 256, vtx 512 256], 0, 0, []⟩ ⟨xy 256 256, xy 512 256, xy 0 0, xy 0 0, 2⟩
    let v := posn 256 512
    ([Instr.adXyz2 v, .reglistXyz2 v, .packedXyz2 0x8100 0x8200 0 false, .adXyzf2 v, .reglistXyzf2 v,
      .packedXyzf2 0x8100 0x8200 0 0 false].all fun i =>
      after i s (fun t => (t.vq, t.win)) =
        some (⟨[vtx 256 256, vtx 512 256, vtx 256 512], 3, 3, [0, 1, 2]⟩, ⟨xy 256 256, xy 512 256, xy 256 512, xy 0 0, 3⟩)) = true ∧
    ([Instr.adXyz3 v, .reglistXyz3 v, .packedXyz3 0x8100 0x8200 0, .packedXyz2 0x8100 0x8200 0 true, .adXyzf3 v, .reglistXyzf3 v,
      .packedXyzf3 0x8100 0x8200 0 0, .packedXyzf2 0x8100 0x8200 0 0 true].all fun i =>
      after i s (fun t => (t.vq, t.win)) = some (⟨[], 0, 0, []⟩, ⟨xy 256 256, xy 512 256, xy 256 512, xy 0 0, 3⟩)) = true := by
  decide

/-- The operands of the forms: Z of 24 and 32 bits, F (R184, R185, R234, R235). -/
theorem test_kick_operands :
    let s := drawing 1 ⟨[], 0, 0, []⟩ .zero
    ([Instr.adXyzf2 0x0700000501000100, .packedXyzf3 0x100 0x100 5 7].all fun i =>
      after i s (fun t => (t.vq.vbuf, t.vacc.f)) = some ([⟨0x100, 0x100, 5, { VAcc.zero with f := 7 }⟩], 7)) = true ∧
    ([Instr.adXyz2 0x1234567880008100, .reglistXyz3 0x1234567880008100].all fun i =>
      after i { s with vacc := { VAcc.zero with f := 9 } } (fun t => (t.vq.vbuf, t.vacc.f)) =
        some ([⟨0x8100, 0x8000, 0x12345678, { VAcc.zero with f := 9 }⟩], 9)) = true := by
  decide

/-- K2, K7, K8, K9, K11: degenerate, outside, an empty box; a line is never degenerate. -/
theorem test_rejection :
    (after (.adXyz2 (posn 512 256)) (drawing 3 ⟨[vtx 256 256, vtx 512 256], 0, 0, []⟩ ⟨xy 256 256, xy 512 256, xy 0 0, xy 0 0, 2⟩) (·.vq) =
      some ⟨[], 0, 0, []⟩) ∧
    (after (.adXyz2 (posn 12000 0)) (drawing 0 ⟨[], 0, 0, []⟩ .zero) (·.vq) = some ⟨[], 0, 0, []⟩) ∧
    (after (.adXyz2 (posn 256 256)) (drawing 6 ⟨[vtx 256 256], 0, 0, []⟩ ⟨xy 256 256, xy 0 0, xy 0 0, xy 0 0, 1⟩) (·.vq) =
      some ⟨[], 0, 0, []⟩) ∧
    (after (.adXyz2 (posn 256 256)) (drawing 1 ⟨[vtx 256 256], 0, 0, []⟩ ⟨xy 256 256, xy 0 0, xy 0 0, xy 0 0, 1⟩) (·.vq.ibuf) =
      some [0, 1]) ∧
    (after (.adXyz2 (posn 0 256))
      { drawing 3 ⟨[vtx 0 0, vtx 4000 0], 0, 0, []⟩ ⟨xy 0 0, xy 4000 0, xy 0 0, xy 0 0, 2⟩ with
        ctx0 := { setup.ctx0 with scissor := 0x01BF00000005000A } } (·.vq) = some ⟨[], 0, 0, []⟩) := by
  decide

/-- K10, REG10: a position left of the offset; a 12.4 difference does not wrap. -/
theorem test_negative_position :
    (after (.adXyz2 0x0000000080107FF0) (drawing 3 ⟨[vtx 16 0, vtx 0 16], 0, 0, []⟩ ⟨xy 16 0, xy 0 16, xy 0 0, xy 0 0, 2⟩)
      (fun t => (t.win.e2, t.vq.ibuf)) = some (xy (-16) 16, [0, 1, 2])) ∧
    (after (.adXyzf2 0x0700000501000100) (drawing 0 ⟨[], 0, 0, []⟩ .zero) (fun t => (t.vacc.f, t.win.e0, t.vq.vbuf)) =
      some (7, xy (-32512) (-32512), [])) := by
  decide

/-- K3, K4: the fifth kick of a fan is accepted untested, even outside the scissor (90 C8); a strip reject advances head. -/
theorem test_fan_and_strip :
    (after (.adXyz2 (posn 12000 0))
      (drawing 5 ⟨[vtx 0 0, vtx 256 0, vtx 256 256, vtx 0 256], 0, 4, [0, 1, 2, 0, 2, 3]⟩ ⟨xy 0 0, xy 256 0, xy 256 256, xy 0 256, 0⟩)
      (fun t => (t.vq.ibuf, t.vq.head, t.vq.next)) = some ([0, 1, 2, 0, 2, 3, 0, 3, 4], 0, 5)) ∧
    (after (.adXyz2 (posn 12000 256))
      (drawing 2 ⟨[vtx 0 0, vtx 12000 0], 1, 2, [0, 1]⟩ ⟨xy 0 0, xy 12000 0, xy 0 0, xy 0 0, 2⟩)
      (fun t => (t.vq.ibuf, t.vq.head, t.vq.next, t.vq.vbuf.length)) = some ([0, 1], 2, 2, 3)) := by
  decide

/-- K5, K6: the accept after strip rejects moves the live vertices down to next. -/
theorem test_compaction :
    (after (.adXyz2 (posn 256 256))
      (drawing 2 ⟨[vtx 0 0, vtx 12000 0, vtx 12000 256, vtx 12000 512], 3, 2, [0, 1]⟩
        ⟨xy 0 0, xy 12000 0, xy 12000 256, xy 12000 512, 0⟩) (·.vq) =
      some ⟨[vtx 0 0, vtx 12000 0, vtx 12000 512, vtx 256 256], 3, 4, [0, 1, 2, 3]⟩) ∧
    (after (.adXyz2 (posn 256 256))
      (drawing 4 ⟨[vtx 0 0, vtx 256 0, vtx 0 256], 1, 0, []⟩ ⟨xy 0 0, xy 256 0, xy 0 256, xy 0 0, 3⟩) (·.vq) =
      some ⟨[vtx 256 0, vtx 0 256, vtx 256 256], 1, 3, [0, 1, 2]⟩) := by
  decide

/-- REG11, K12, K13: kicks disabled; the two capacities, the second after the append. -/
theorem test_kick_limits :
    let s := drawing 3 ⟨[vtx 256 256, vtx 512 256], 0, 0, []⟩ ⟨xy 256 256, xy 512 256, xy 0 0, xy 0 0, 2⟩
    (after (.adXyzf2 (posn 256 512)) { s with cfg := { Config.defaults with kickEnabled := false } } (fun t => (t.vq, t.win, t.vacc)) =
      some (s.vq, s.win, s.vacc)) ∧
    (after (.adXyz2 (posn 256 512)) { s with cfg := { Config.defaults with vbufMax := some 2 } } (fun t => (t.fault, t.vq, t.win)) =
      some (some .bufferExhausted, s.vq, s.win)) ∧
    (after (.adXyz2 (posn 256 512)) { s with cfg := { Config.defaults with ibufMax := some 2 } }
      (fun t => (t.fault, t.vq.vbuf.length, t.vq.ibuf, t.win.count)) = some (some .bufferExhausted, 3, [], 3)) := by
  decide

/-- K14: with the hazard and auto-flush the accepted triangle is drawn at once. -/
theorem test_hazard :
    (after (.adXyz2 (posn 256 512))
      { drawing 0x013 ⟨[vtx 256 256, vtx 512 256], 0, 0, []⟩ ⟨xy 256 256, xy 512 256, xy 0 0, xy 0 0, 2⟩ with
        env := { Env.zero with prim := 0x013, prmodecont := 1 }
        ctx0 := { setup.ctx0 with frame := 1, tex0 := 32 }
        cfg := { Config.defaults with autoFlush := true } } (fun t => (t.out.length, t.vq)) = some (1, ⟨[], 0, 0, []⟩)) := by
  decide

/-! ## Flush (95_test_vectors, Flush and draw) -/

/-- FL1, FL2, FL4: nothing pending; one Draw and the carried vertex; a renderer that fails. -/
theorem test_flush :
    (stepped (atCall .flushRequest (drawing 3 ⟨[vtx 0 0, vtx 256 0], 0, 0, []⟩ .zero)) (fun t => (t.out, t.vq)) =
      some ([], ⟨[vtx 0 0, vtx 256 0], 0, 0, []⟩)) ∧
    (stepped (atCall .flushRequest pendingList) (fun t => (t.out, t.vq)) =
      some ([.draw { env := { Env.zero with prim := 3 }, ctx := setup.ctx0, actx := .c0, attr := 0 }
        [vtx 0 0, vtx 256 0, vtx 0 256, vtx 256 256] [0, 1, 2] .triangle], ⟨[vtx 256 256], 0, 0, []⟩)) ∧
    (stepped (atCall .flushRequest { pendingList with replies := [⟨false, [(5, 0xAA)]⟩] })
      (fun t => (t.out.drop 1, t.vq.vbuf, t.mem.cells)) = some ([.error .rendererFailed], [vtx 256 256], [(5, 0xAA)])) := by
  decide

/-- FL3, K15: what a strip and a fan carry forward. -/
theorem test_carry :
    (stepped (atCall .flushRequest
      (drawing 4 ⟨[vtx 0 0, vtx 16 0, vtx 0 16, vtx 16 16, vtx 0 32], 3, 5, [0, 1, 2, 1, 2, 3, 2, 3, 4]⟩ .zero)) (·.vq) =
      some ⟨[vtx 16 16, vtx 0 32], 0, 2, []⟩) ∧
    (stepped (atCall .flushRequest
      (drawing 5 ⟨[vtx 0 0, vtx 16 0, vtx 0 16, vtx 16 16, vtx 0 32], 0, 5, [0, 1, 2, 0, 2, 3, 0, 3, 4]⟩ .zero)) (·.vq) =
      some ⟨[vtx 0 0, vtx 0 32], 0, 2, []⟩) := by
  decide

/-! ## Transfers (95_test_vectors, Transfer) -/

/-- XF5, XF6, XF4: a zero size is one pixel; an unlisted format counts as 32 bits; a Read announces its source. -/
theorem test_trxdir :
    (after (.adTrxdir 0) (transfer 0 0 0 0 0) (fun t => (t.xfer.mode, t.xfer.w, t.xfer.h, t.xfer.total)) = some (.write, 1, 1, 4)) ∧
    (after (.adTrxdir 0) (transfer 0 5 1 1 0) (fun t => (t.xfer.bpp, t.xfer.total)) = some (32, 4)) ∧
    (after (.adTrxdir 1) (transfer 0 0 1 1 0) (fun t => (t.xfer.mode, t.out)) =
      some (.read, [.invalidateLocalMem (blitOf 0 0) ⟨0, 0, 1, 1⟩])) := by
  decide

/-- XF1, REG13, DEC13: two pixels by IMAGE, with eight bytes too many, and by HWREG; IMAGE2 as IMAGE. -/
theorem test_write_data :
    (after (.giftagImage (.data 0x44444444333333332222222211111111)) { armed .write 0 0 2 1 32 with path0 := ⟨0, 2, 0⟩ }
      (fun t => (t.mem.cells, t.xfer.mode, t.out, t.path0.nloop)) =
      some ([(0, 0x11), (1, 0x11), (2, 0x11), (3, 0x11), (4, 0x22), (5, 0x22), (6, 0x22), (7, 0x22)], .idle,
        [.log .transferOverflow, .invalidateVideoMem (blitOf 0 0) ⟨0, 0, 2, 1⟩], 1)) ∧
    (after (.adHwreg 0x2222222211111111) (armed .write 0 0 2 1 32) (fun t => (t.mem.cells, t.xfer.mode, t.out)) =
      some ([(0, 0x11), (1, 0x11), (2, 0x11), (3, 0x11), (4, 0x22), (5, 0x22), (6, 0x22), (7, 0x22)], .idle,
        [.invalidateVideoMem (blitOf 0 0) ⟨0, 0, 2, 1⟩])) ∧
    (after (.giftagImage2 (.data 0xAABBCCDD)) (armed .write 0 0 1 1 32) (fun t => (t.mem.cells, t.out)) =
      some ([(0, 0xDD), (1, 0xCC), (2, 0xBB), (3, 0xAA)],
        [.log .transferOverflow, .invalidateVideoMem (blitOf 0 0) ⟨0, 0, 1, 1⟩])) := by
  decide +kernel

/-- XF2, XF3: pixels of 24 bits and of 4 bits; the other bits of their words stay. -/
theorem test_write_formats :
    (after (.adHwreg 0x0000665544332211) { armed .write 0 1 2 1 24 with mem := ⟨[(3, 0x99), (7, 0x88)], 0⟩ } (·.mem.cells) =
      some [(0, 0x11), (1, 0x22), (2, 0x33), (3, 0x99), (4, 0x44), (5, 0x55), (6, 0x66), (7, 0x88)]) ∧
    (after (.adHwreg 0x0321) { armed .write 0 0x24 3 1 4 with mem := ⟨[(3, 0xA0), (7, 0xB0), (19, 0xC0)], 0⟩ } (·.mem.cells) =
      some [(3, 0xA1), (7, 0xB2), (19, 0xC3)]) := by
  decide

/-- The example of P3: the pixels of the first eight words; and a block of the next row (R87), a second page, and the wrap of R86 at
16384 blocks. -/
theorem test_pixel_place :
    ([(0, 0), (1, 0), (0, 1), (1, 1), (2, 0), (3, 0), (2, 1), (3, 1)].map fun p => (pixelLoc 0x00 0 1 p.1 p.2).addr) =
      [0, 4, 8, 12, 16, 20, 24, 28] ∧
    pixelLoc 0x2C 0 1 8 8 = ⟨768, 28, 4⟩ ∧ pixelLoc 0x01 1 2 64 0 = ⟨8448, 0, 4⟩ ∧ pixelLoc 0x1B 16383 1 (2048 + 8) 2048 = ⟨0, 24, 4⟩ := by
  decide

/-- XF8, XF11: the data's flush comes first; data no Write can take is logged once. -/
theorem test_data_order :
    (after (.giftagImage (.data 0)) { armed .write 0 0 2 1 32 with vq := ⟨[vtx 0 0], 1, 1, [0]⟩ } (fun t => t.out.drop 1) =
      some [.log .transferOverflow, .invalidateVideoMem (blitOf 0 0) ⟨0, 0, 2, 1⟩]) ∧
    (after (.adHwreg 7) setup (fun t => (t.out, t.xfer.overflow)) = some ([.log .transferOverflow], true)) ∧
    (after (.adHwreg 7) { setup with xfer := { Xfer.idle with overflow := true } } (·.out) = some []) := by
  decide +kernel

/-- XF10 and one row of WE3: a Move truncates to 24 bits; with DIRX = 1 an overlapping Move to the right is a copy. -/
theorem test_move :
    (after (.adTrxdir 2) { transfer 0 1 1 1 1 with mem := ⟨[(0, 0xDD), (1, 0xCC), (2, 0xBB), (3, 0xAA), (7, 0x77)], 0⟩ } (·.mem.cells) =
      some [(0, 0xDD), (1, 0xCC), (2, 0xBB), (3, 0xAA), (4, 0xDD), (5, 0xCC), (6, 0xBB), (7, 0x77)]) ∧
    (after (.adTrxdir 2) { transfer 0x1B 0x1B 2 1 0 with
      env := { (transfer 0x1B 0x1B 2 1 0).env with trxpos := 0x1000000100000000 }, mem := ⟨[(3, 1), (7, 2), (19, 9)], 0⟩ } (·.mem.cells) =
      some [(3, 1), (7, 1), (19, 2)]) := by
  decide

/-- XF4, P6: the bytes of a pixel, low byte first; the Read is idle after its last byte. -/
theorem test_read :
    (stepped (atCall (.readFIFO 1) { armed .read 0 0 4 1 32 with
        mem := ⟨(List.range 24).map fun a => (a, BitVec.ofNat 8 (a + 1)), 0⟩ }) (fun t => (t.out, t.xfer.mode)) =
      some ([.readData [1, 2, 3, 4, 5, 6, 7, 8, 17, 18, 19, 20, 21, 22, 23, 24]], .idle)) := by
  decide +kernel

/-! ## Host calls and stops (95_test_vectors, Exceptions, Reset) -/

/-- DEC11, WE6: SoftReset clears the selected path alone. -/
theorem test_soft_reset :
    stepped (atCall (.softReset 0b0001) { pendingList with path0 := ⟨5, 3, 1⟩, path1 := ⟨6, 2, 1⟩ }) (fun t => (t.path0, t.path1, t.vq)) =
      some (.fresh, ⟨6, 2, 1⟩, pendingList.vq) := by decide

/-- EX1, RS2: a faulted block takes no call but PowerOn, which clears the fault. -/
theorem test_stuck :
    stepped (atCall .flushRequest { pendingList with fault := some .bufferExhausted }) (fun t => (t.out, t.vq, t.fault)) =
      some ([], pendingList.vq, some .bufferExhausted) ∧
    stepped (atCall .powerOn { pendingList with fault := some .bufferExhausted }) (fun t => (t.fault, t.vq, t.qint)) =
      some (none, .empty, 0x3F800000) ∧
    nextOf (step { pendingList with fault := some .bufferExhausted }) = none := by
  decide

/-- RS4: Reconfigure. -/
theorem test_reconfigure :
    stepped (atCall (.reconfigure true false false) setup) (·.cfg) =
      some { Config.defaults with autoFlush := true, altUvRounding := false, kickEnabled := false } := by
  decide

/-- The image of a state with a group pending is one that Freeze saves. -/
theorem pendingList_image : (imageOf pendingList).Ok Config.defaults := (Image.legal_iff _ _).1 (by decide)

/-- EX5, 70 R433: Freeze changes nothing but what it returns, Defrost of that brings the image back, and a blob that cannot be decoded
is refused. -/
theorem test_freeze :
    stepped (atCall .freeze pendingList) (fun t => (t.vq, t.blobs)) = some (pendingList.vq, [frozen (imageOf pendingList)]) := rfl

theorem test_defrost :
    stepped (atCall (.defrost (frozen (imageOf pendingList))) setup) (fun t => (t.vq, t.env)) = some (pendingList.vq, pendingList.env) := by
  change some ((defrost (frozen (imageOf pendingList)) setup).vq, (defrost (frozen (imageOf pendingList)) setup).env) = _
  simp only [defrost, thawed_frozen (cfg := setup.cfg) pendingList_image]
  rfl

theorem test_defrost_undecodable (blob : Blob) (h : thawed setup.cfg blob = none) :
    stepped (atCall (.defrost blob) setup) (·.refused) = some (some .badSnapshot) := by
  change some (defrost blob setup).refused = _
  simp only [defrost, h]
  rfl

/-- 10_state R36, R43, R44, R45, R47: one field of an image out of its range, and Defrost does not take it. -/
theorem test_legal_refuses :
    let b := imageOf pendingList
    Image.legal Config.defaults b = true ∧
    Image.legal Config.defaults { b with env := { b.env with prim := 0x803 } } = false ∧
    Image.legal Config.defaults { b with vq := { b.vq with next := 5 } } = false ∧
    Image.legal Config.defaults { b with vq := { b.vq with ibuf := [0, 1, 4] } } = false ∧
    Image.legal { Config.defaults with vbufMax := some 3 } b = false ∧
    Image.legal Config.defaults { b with win := { b.win with e1 := ⟨131072, 0⟩ } } = false ∧
    Image.legal Config.defaults { b with xfer := { b.xfer with w := 1, h := 1, cx := 1 } } = false ∧
    Image.legal Config.defaults { b with xfer := { b.xfer with pcount := 40 } } = false := by decide

/-- 43 R355, log 22: indices of a sprite type 7 are no pending group where type 7 is discarded; without indices the image is taken. -/
theorem test_legal_type7 :
    let b := { imageOf pendingList with env := { Env.zero with prim := 7 }, vq := ⟨[vtx 0 0, vtx 1 1], 2, 2, [0, 1]⟩ }
    let discard := { Config.defaults with prim7 := .discard }
    Image.legal Config.defaults b = true ∧ Image.legal discard b = false ∧ Image.legal discard { b with vq := ⟨[], 0, 0, []⟩ } = true := by
  decide

/-- A placed table word runs as the first instruction after reset. -/
theorem test_fetch_word :
    stepped (State.reset.withFetchWord 8 0x54) (fun t => (t.xfer.overflow, t.path0.nloop)) = some (true, 0) ∧
    stepped (State.reset.withFetchWord 64 0x1000000000000001) (fun t => t.path0.nloop) = some 1 := by
  decide

/-! ## Witnesses: for every statement with hypotheses, concrete states and operands that meet them, one for each clause -/

theorem test_witness_DecodeEncodeInverse :
    (Instr.adPrim 3).wellFormed = true ∧ (Instr.packedAd 0x7F 0).wellFormed = true := by decide

theorem test_witness_StepRunsDecodedUnit :
    let s := atUnit 0x1000000000000001 0x1 1 0 7 [9]
    AtUnit s 7 [9] ∧ ∃ t, exec (decode (fetchUnit s 7)) s = .next t := ⟨⟨rfl, rfl⟩, _, rfl⟩

/-- A tag boundary, and a tag of each format with each half. -/
theorem test_witness_TagStateSelectsUnit :
    setup.cur.nloop = 0#15 ∧
    (let s := atUnit 0x1000000000000001 0x1 1 0 7 []; s.cur.nloop ≠ 0#15 ∧ bits s.cur.tag 58 2 = 0#2) ∧
    (let s := atUnit 0x1400000000000001 0x1 1 0 7 []; s.cur.nloop ≠ 0#15 ∧ bits s.cur.tag 58 2 = 1#2 ∧ s.feed.half = false) ∧
    (let s := { atUnit 0x1400000000000001 0x1 1 0 7 [] with feed := ⟨.p0, [7], true⟩ };
      s.cur.nloop ≠ 0#15 ∧ bits s.cur.tag 58 2 = 1#2 ∧ s.feed.half = true) ∧
    (let s := atUnit 0x0800000000000001 0 1 0 7 []; s.cur.nloop ≠ 0#15 ∧ bits s.cur.tag 58 2 = 2#2) ∧
    (let s := atUnit 0x0C00000000000001 0 32767 0 7 []; s.cur.nloop ≠ 0#15 ∧ bits s.cur.tag 58 2 = 3#2) := by decide

/-- A slot in the middle of a tag; the last slot of a tag with EOP on path 0; slot 15 of a tag with NREG = 0. -/
theorem test_witness_PackedSlotStepsCursor :
    (let s := atUnit 0x3000000000008002 0x512 2 0 7 [9];
      AtUnit s 7 [9] ∧ s.cur.nloop ≠ 0#15 ∧ bits s.cur.tag 58 2 = 0#2 ∧
      (∃ t, exec (decode (fetchUnit s 7)) s = .next t ∧ t.stuck = false) ∧ (steppedPath s.cur).nloop ≠ 0#15) ∧
    (let s := atUnit 0x1000000000008001 0x1 1 0 7 [9];
      AtUnit s 7 [9] ∧ s.cur.nloop ≠ 0#15 ∧ bits s.cur.tag 58 2 = 0#2 ∧
      (∃ t, exec (decode (fetchUnit s 7)) s = .next t ∧ t.stuck = false) ∧ (steppedPath s.cur).nloop = 0#15 ∧
      bit s.cur.tag 15 = true ∧ s.feed.path.inMask s.cfg.eopTerminates = true) ∧
    (steppedPath ⟨0x0000000000000002, 2, 15⟩ = ⟨0x0000000000000002, 1, 0⟩) :=
  ⟨⟨⟨rfl, rfl⟩, by decide, by decide, ⟨_, rfl, by decide⟩, by decide⟩,
    ⟨⟨rfl, rfl⟩, by decide, by decide, ⟨_, rfl, by decide⟩, by decide, by decide, by decide⟩, by decide⟩

/-- A low half that leaves the high half to do, a low half that completes its tag, and a high half. -/
theorem test_witness_ReglistHalvesInOrder :
    (let s := atUnit 0x3400000000000001 0x521 1 0 7 [9];
      AtUnit s 7 [9] ∧ s.cur.nloop ≠ 0#15 ∧ bits s.cur.tag 58 2 = 1#2 ∧
      (∃ t, exec (decode (fetchUnit s 7)) s = .next t ∧ t.stuck = false) ∧ s.feed.half = false ∧ (steppedPath s.cur).nloop ≠ 0#15) ∧
    (let s := atUnit 0x3400000000000001 0x521 1 2 7 [9];
      AtUnit s 7 [9] ∧ s.cur.nloop ≠ 0#15 ∧ bits s.cur.tag 58 2 = 1#2 ∧
      (∃ t, exec (decode (fetchUnit s 7)) s = .next t ∧ t.stuck = false) ∧ s.feed.half = false ∧ (steppedPath s.cur).nloop = 0#15) ∧
    (let s := { atUnit 0x3400000000000002 0x521 2 1 7 [9] with feed := ⟨.p0, [7, 9], true⟩ };
      AtUnit s 7 [9] ∧ s.cur.nloop ≠ 0#15 ∧ bits s.cur.tag 58 2 = 1#2 ∧
      (∃ t, exec (decode (fetchUnit s 7)) s = .next t ∧ t.stuck = false) ∧ s.feed.half = true) :=
  ⟨⟨⟨rfl, rfl⟩, by decide, by decide, ⟨_, rfl, by decide⟩, rfl, by decide⟩,
    ⟨⟨rfl, rfl⟩, by decide, by decide, ⟨_, rfl, by decide⟩, rfl, by decide⟩,
    ⟨⟨rfl, rfl⟩, by decide, by decide, ⟨_, rfl, by decide⟩, rfl⟩⟩

/-- With EOP on path 0, and without. -/
theorem test_witness_EmptyTagTouchesOnlyItsPath :
    ∀ q ∈ [(0x8000 : Qword), 0x1000000000000000],
      let s := { setup with feed := ⟨.p0, [q, 9], false⟩ }
      AtUnit s q [9] ∧ s.cur.nloop = 0#15 ∧ bits q 0 15 = 0#15 := by
  intro q hq
  simp only [List.mem_cons, List.not_mem_nil, or_false] at hq
  rcases hq with rfl | rfl <;> exact ⟨⟨rfl, rfl⟩, by decide, by decide⟩

/-- The last slot of a tag, with EOP and without. -/
theorem test_witness_EndOfPacketEndsCall :
    ∀ lo ∈ [0x1000000000008001, 0x1000000000000001],
      let s := atUnit lo 0x1 1 0 7 [9]
      AtUnit s 7 [9] ∧ ∃ u, step s = .next u ∧ u.stuck = false ∧ (u.path s.feed.path).nloop = 0#15 := by
  intro lo hlo
  simp only [List.mem_cons, List.not_mem_nil, or_false] at hlo
  rcases hlo with rfl | rfl <;> exact ⟨⟨rfl, rfl⟩, _, rfl, by decide, by decide⟩

theorem test_witness_PathsAreIsolated :
    let s := atUnit 0x1000000000000001 0x1 1 0 7 []
    AtUnit s 7 [] ∧ (∃ t, step s = .next t) ∧ PathId.p1 ≠ s.feed.path := ⟨⟨rfl, rfl⟩, ⟨_, rfl⟩, by decide⟩

/-- A block that runs; a stopped one with a call left. -/
theorem test_witness_EveryInstructionAnswersNext :
    setup.stuck = false ∧ (let s := atCall .powerOn { setup with fault := some .bufferExhausted }; s.stuck = true ∧ s.calls ≠ []) := by
  decide

/-- PRE = 0; PRE = 1 with NLOOP = 0; PRE = 1 with data. -/
theorem test_witness_TagStartLoadsPath :
    (tagFields 0x1000000000000001).pre = false ∧
    ((tagFields 0x0000400000000000).pre = true ∧ (tagFields 0x0000400000000000).nloop = 0) ∧
    ((tagFields 0x0001C00000007FFF).pre = true ∧ (tagFields 0x0001C00000007FFF).nloop ≠ 0) := by decide

theorem test_witness_AttributeWrites :
    setup.cfg.altUvRounding = false ∧
    (let s := { setup with cfg := { Config.defaults with altUvRounding := true } }; s.cfg.altUvRounding = true) := by decide

theorem test_witness_NoEffectUnits : unassignedAddr 0x0B = true ∧ unassignedAddr 0x7F = true := by decide

theorem test_witness_ReservedDescriptorPolicy :
    setup.cfg.reservedDesc = .nop ∧
    (let s := { atUnit 0x1000000000000001 0xB 1 0 7 [] with cfg := { Config.defaults with reservedDesc := .refuse } };
      s.cfg.reservedDesc = .refuse ∧ AtUnit s 7 [] ∧ unitCtx s = .packed 0xB) := ⟨rfl, rfl, ⟨rfl, rfl⟩, by decide⟩

theorem test_witness_register_writes :
    Instr.adTex0_1 5 ∈ ctxRows .tex0 .c0 5 ∧ Instr.packedTex0_1 5 ∈ ctxRows .tex0 .c0 5 ∧ Instr.reglistClamp_2 5 ∈ ctxRows .clamp .c1 5 ∧
    Instr.adDthe 1 ∈ envRows .dthe 1 ∧ Instr.packedPrim (bits (5 : Word64) 0 11) ∈ primRows 5 := by decide

/-- PrimWrite: a class change, an attribute change with AC = 1, and neither. -/
theorem test_witness_PrimWrite :
    (topologyOf pendingList.cfg.prim7 (bits (1 : Word64) 0 3)).cls ≠ pendingList.topology.cls ∧
    (let s := { pendingList with env := { pendingList.env with prmodecont := 1 } };
      (topologyOf s.cfg.prim7 (bits (0x13 : Word64) 0 3)).cls = s.topology.cls ∧
      bit s.env.prmodecont 0 = true ∧ bits (0x13 : Word64) 3 8 ≠ bits s.env.prim 3 8) ∧
    ((topologyOf pendingList.cfg.prim7 (bits (4 : Word64) 0 3)).cls = pendingList.topology.cls ∧
      bit pendingList.env.prmodecont 0 = false) := by decide

theorem test_witness_RoutesAgree :
    (0x0#4).toNat ≤ 0xD ∧ (0xD#4).toNat ≤ 0xD ∧ 6 ≤ (0x6#4).toNat ∧ (0x9#4).toNat ≤ 9 := by decide

/-- RegisterWriteFrame: each of its four clauses, with a group pending and without. -/
theorem test_witness_RegisterWriteFrame :
    (Instr.adTex2_2 7 ∈ tex2Row .c1 7 :: ctxRows .fba .c1 7 ∧ (∃ t, exec (.adTex2_2 7) pendingList = .next t) ∧ CtxId.c1 ≠ pendingList.actx) ∧
    (Instr.adDthe 1 ∈ envRows .dthe 1 ∧ (∃ t, exec (.adDthe 1) setup = .next t) ∧ setup.pending = false) ∧
    (∃ t, exec (.adPrmode 0x200) pendingList = .next t) ∧
    (Instr.reglistPrim 6 ∈ primRows 6 ∧ ∃ t, exec (.reglistPrim 6) pendingList = .next t) :=
  ⟨⟨by decide, ⟨_, rfl⟩, by decide⟩, ⟨by decide, ⟨_, rfl⟩, by decide⟩, ⟨_, rfl⟩, by decide, _, rfl⟩

/-- A rewrite of the held value, and changes of a context and an environment register with a group pending. -/
theorem test_witness_FlushExactlyOnEffectiveChange :
    storesFields CtxReg.alpha.fieldTable 0 ((pendingList.ctx .c0).get .alpha) ∧
    storesFields EnvReg.dthe.fieldTable 2 (pendingList.env.get .dthe) ∧ pendingList.pending = true ∧
    ¬ storesFields CtxReg.alpha.fieldTable 0x44 ((pendingList.ctx pendingList.actx).get .alpha) ∧
    ¬ storesFields EnvReg.dthe.fieldTable 1 (pendingList.env.get .dthe) := by
  refine ⟨fun i => ?_, fun i => ?_, rfl, fun h => absurd (h 2) (by decide), fun h => absurd (h 0) (by decide)⟩
  · change (0#64).getLsbD i = (_ && (0#64).getLsbD i); simp
  · change (0#64).getLsbD i = (inFields [(0, 0)] i && (2#64).getLsbD i)
    by_cases hi : i = 0
    · subst hi; decide
    · have : inFields [(0, 0)] i = false := by simp [inFields]; omega
      simp [this]

theorem test_witness_PendingGroupDrawnUnderItsRegisters :
    pendingList.pending = true ∧ (∃ t, exec (.adDthe 1) pendingList = .next t) ∧ ∃ t, exec (.adFog 0) pendingList = .next t :=
  ⟨rfl, ⟨_, rfl⟩, _, rfl⟩

/-- A kick of the two forms of operands, with room for exactly one vertex more, of a primitive that stays incomplete. -/
theorem test_witness_KickStoresVertex :
    let s := { drawing 3 ⟨[vtx 0 0], 0, 0, []⟩ .zero with cfg := { Config.defaults with vbufMax := some 2 } }
    KickRuns (.adXyz2 5) (xyzArgs 5 false) s ∧ (xyzArgs 5 false).live s < s.topology.verts ∧
    KickRuns (.packedXyzf3 1 2 3 4) ⟨1, 2, 3, some 4, true⟩ s :=
  ⟨⟨rfl, rfl, by intro c hc; cases hc; decide⟩, by decide, ⟨rfl, rfl, by intro c hc; cases hc; decide⟩⟩

/-- The third vertex of a triangle list inside the scissor, with room for exactly three indices. -/
def accepting : State :=
  { drawing 3 ⟨[vtx 256 256, vtx 512 256], 0, 0, []⟩ ⟨xy 256 256, xy 512 256, xy 0 0, xy 0 0, 2⟩ with
    cfg := { Config.defaults with ibufMax := some 3 } }

theorem accepting_runs : KickRuns (.adXyz2 (posn 256 512)) (xyzArgs (posn 256 512) false) accepting :=
  ⟨rfl, rfl, by intro c hc; cases hc⟩

theorem accepting_accepts : KickAccepts (xyzArgs (posn 256 512) false) accepting :=
  ⟨by decide, rfl, by decide, by intro c hc; cases hc; decide⟩

theorem test_witness_KickEmitsPrimitive :
    KickRuns (.adXyz2 (posn 256 512)) (xyzArgs (posn 256 512) false) accepting ∧ KickAccepts (xyzArgs (posn 256 512) false) accepting ∧
      (accepting.cfg.autoFlush && hazard accepting) = false := ⟨accepting_runs, accepting_accepts, by decide⟩

/-- The strip clauses: next below head, and next at head. -/
theorem test_witness_KickEmitsPrimitive_strips :
    (let s := drawing 4 ⟨[vtx 0 0, vtx 256 0, vtx 0 256], 1, 0, []⟩ ⟨xy 0 0, xy 256 0, xy 0 256, xy 0 0, 3⟩;
      KickAccepts (xyzArgs (posn 256 256) false) s ∧ s.vq.next < s.vq.head) ∧
    (let s := drawing 2 ⟨[vtx 0 0], 0, 0, []⟩ ⟨xy 0 0, xy 0 0, xy 0 0, xy 0 0, 1⟩;
      KickAccepts (xyzArgs (posn 256 256) false) s ∧ s.vq.head ≤ s.vq.next) :=
  ⟨⟨⟨by decide, rfl, by decide, by intro c hc; cases hc⟩, by decide⟩, ⟨⟨by decide, rfl, by decide, by intro c hc; cases hc⟩, by decide⟩⟩

/-- A skipped primitive, and one the test rejects. -/
theorem test_witness_KickRejectsPrimitive :
    (KickRuns (.adXyz3 (posn 256 512)) (xyzArgs (posn 256 512) true) accepting ∧
      accepting.topology.verts ≤ (xyzArgs (posn 256 512) true).live accepting ∧ (xyzArgs (posn 256 512) true).skip = true) ∧
    (KickRuns (.adXyz2 (posn 512 256)) (xyzArgs (posn 512 256) false) accepting ∧
      reject ((xyzArgs (posn 512 256) false).appended accepting) accepting.topology ((xyzArgs (posn 512 256) false).live accepting) = true) :=
  ⟨⟨⟨rfl, rfl, by intro c hc; cases hc⟩, by decide, rfl⟩, ⟨⟨rfl, rfl, by intro c hc; cases hc⟩, by decide⟩⟩

/-- The default test; a fan of four and of five. Rejection holds of one state and fails of another, on the edge of the box. -/
theorem test_witness_TrivialRejection :
    setup.cfg.degenerate = .pairEqual ∧ 4 ≤ 4 ∧ 4 < 5 ∧
    reject { setup with win := ⟨xy 10239 7167, xy 0 0, xy 0 0, xy 0 0, 1⟩ } .pointList 1 = false ∧
    reject { setup with win := ⟨xy 10240 7167, xy 0 0, xy 0 0, xy 0 0, 1⟩ } .pointList 1 = true := by decide

/-- No room for the vertex; room for it and not for the indices. -/
theorem test_witness_BufferExhaustedIsFatal :
    (let s := { accepting with cfg := { Config.defaults with vbufMax := some 2 } };
      kickOf (.adXyz2 (posn 256 512)) = some (xyzArgs (posn 256 512) false) ∧ s.cfg.kickEnabled = true ∧
      ¬ fits s.cfg.vbufMax (s.vq.vbuf.length + 1)) ∧
    (let s := { accepting with cfg := { Config.defaults with vbufMax := some 3, ibufMax := some 2 } };
      let k := xyzArgs (posn 256 512) false;
      s.cfg.kickEnabled = true ∧ fits s.cfg.vbufMax (s.vq.vbuf.length + 1) ∧ s.topology.verts ≤ k.live s ∧ k.skip = false ∧
      reject (k.appended s) s.topology (k.live s) = false ∧ ¬ fits s.cfg.ibufMax (s.vq.ibuf.length + s.topology.verts)) :=
  ⟨⟨rfl, rfl, fun h => absurd (h 2 rfl) (by decide)⟩,
    ⟨rfl, by intro c hc; cases hc; decide, by decide, rfl, by decide, fun h => absurd (h 2 rfl) (by decide)⟩⟩

theorem test_witness_HazardFlushesPrimitive :
    let s := { accepting with
      env := { Env.zero with prim := 0x013, prmodecont := 1 }
      ctx0 := { setup.ctx0 with frame := 1, tex0 := 32 }
      cfg := { Config.defaults with autoFlush := true } }
    KickRuns (.adXyz2 (posn 256 512)) (xyzArgs (posn 256 512) false) s ∧ KickAccepts (xyzArgs (posn 256 512) false) s ∧
      s.cfg.autoFlush = true ∧ meetsHazard s :=
  ⟨⟨rfl, rfl, by intro c hc; cases hc⟩, ⟨by decide, rfl, by decide, by intro c hc; cases hc⟩, rfl, by decide, by decide⟩

theorem test_witness_KickFrame :
    kickOf (.adXyz2 (posn 256 512)) = some (xyzArgs (posn 256 512) false) ∧ (∃ t, exec (.adXyz2 (posn 256 512)) accepting = .next t) ∧
      (xyzArgs (posn 256 512) false).f = none ∧ (accepting.cfg.autoFlush && hazard accepting) = false := ⟨rfl, ⟨_, rfl⟩, rfl, by decide⟩

theorem test_witness_DisabledKickHasNoEffect :
    let s := { accepting with cfg := { Config.defaults with kickEnabled := false } }
    kickOf (.adXyzf2 7) = some (xyzfArgs 7 false) ∧ s.cfg.kickEnabled = false := ⟨rfl, rfl⟩

theorem test_witness_DiscardedTypeDropsVertex :
    let s := { drawing 7 ⟨[], 0, 0, []⟩ .zero with cfg := { Config.defaults with prim7 := .discard } }
    KickRuns (.adXyz2 5) (xyzArgs 5 false) s ∧ s.cfg.prim7 = .discard ∧ bits s.env.prim 0 3 = 7#3 ∧ s.QueueOk ∧ s.fault = none :=
  ⟨⟨rfl, rfl, by intro c hc; cases hc⟩, rfl, by decide,
    ⟨⟨by decide, by decide, by intro i hi; cases hi⟩, ⟨rfl, rfl⟩, fun _ => ⟨by decide, by decide, by decide, by decide⟩⟩, rfl⟩

/-- With a renderer answer queued, and with none. -/
theorem test_witness_FlushDrawsPendingGroup :
    pendingList.pending = true ∧ pendingList.replies = [⟨true, []⟩] ∧ { pendingList with replies := [] }.pending = true := ⟨rfl, rfl, rfl⟩

/-- An empty window; a live window of a list; a fan with its anchor alone, and with more. -/
theorem test_witness_FlushCarriesContinuation :
    (let s := drawing 0 ⟨[vtx 0 0], 1, 1, [0]⟩ .zero; s.pending = true ∧ s.vq.vbuf.length ≤ s.vq.head) ∧
    (pendingList.vq.vbuf.drop pendingList.vq.head = [vtx 256 256] ∧ pendingList.topology ≠ .triangleFan) ∧
    (let s := drawing 5 ⟨[vtx 0 0, vtx 1 1, vtx 2 2, vtx 3 3], 3, 3, [0, 1, 2]⟩ .zero;
      s.pending = true ∧ s.topology = .triangleFan ∧ s.vq.vbuf.drop s.vq.head = [vtx 3 3]) ∧
    (let s := drawing 5 ⟨[vtx 0 0, vtx 1 1, vtx 2 2], 0, 3, [0, 1, 2]⟩ .zero;
      s.pending = true ∧ s.topology = .triangleFan ∧ s.vq.vbuf.drop s.vq.head = vtx 0 0 :: [vtx 1 1, vtx 2 2] ∧
      [vtx 1 1, vtx 2 2].getLast? = some (vtx 2 2)) := by decide

theorem test_witness_FlushRequestDrawsOnce :
    AtCall (atCall .flushRequest pendingList) .flushRequest [] ∧ setup.vq.ibuf = [] := ⟨⟨rfl, rfl, rfl⟩, rfl⟩

theorem test_witness_TrxdirStartsTransfer :
    bits (0 : Word64) 0 2 = 0#2 ∧ bits (1 : Word64) 0 2 = 1#2 ∧ bits (2 : Word64) 0 2 = 2#2 ∧ bits (3 : Word64) 0 2 = 3#2 := by decide

theorem test_witness_MoveOntoItself :
    let s := transfer 0 0 4 4 0
    bits (2 : Word64) 0 2 = 2#2 ∧ s.pending = false ∧ sbp s.env.bitbltbuf = dbp s.env.bitbltbuf ∧ sbw s.env.bitbltbuf = dbw s.env.bitbltbuf ∧
      spsm s.env.bitbltbuf = dpsm s.env.bitbltbuf ∧ ssax s.env.trxpos = dsax s.env.trxpos ∧ ssay s.env.trxpos = dsay s.env.trxpos := by
  decide

/-- The power-on engine is in range, and so is a freshly armed one. -/
theorem idleXfer_ok : Xfer.idle.Ok := ((Xfer.legal_iff _).1 (by decide)).1

theorem armed_ok (x : BitVec 2) (sp dp w h c : Nat) : (transferStart x (transfer sp dp w h c)).xfer.Ok := transferStart_ok _ idleXfer_ok

/-- A Write of 24-bit pixels from a pixel boundary, one that a HWREG value leaves inside a pixel, and one of 4-bit pixels that ends in
padding before the data do. -/
theorem test_witness_DataWritesPixels :
    WriteArmed (transferStart 0#2 (transfer 0 1 8 1 0)).xfer ∧
    (∃ t, exec (.adHwreg 0x8877665544332211) (transferStart 0#2 (transfer 0 1 8 1 0)) = .next t ∧ t.xfer.pcount = 16 ∧ WriteArmed t.xfer) ∧
    (let x := (transferStart 0#2 (transfer 0 0x24 3 1 0)).xfer;
      WriteArmed x ∧ takenBytes x 8 = 2 ∧ completed x 8 = 4 ∧ stored x 8 = 3) :=
  ⟨⟨armed_ok .., by decide, by decide⟩, ⟨_, rfl, by decide, (xferData_ok _ (armed_ok ..)).1, by decide, by decide⟩,
    ⟨armed_ok .., by decide, by decide⟩, by decide, by decide, by decide⟩

/-- The pixel accesses of DataWritesPixels: bits of a pixel at a wrapped address, a bit of its word that is none, and a format whose
place is free. -/
theorem test_witness_PixelAccess :
    (let loc := pixelLoc 0x24 0 1 0 0;
      0 < trbpp 0x24 ∧ holdsPixelBit loc 0 3 0 ∧ holdsPixelBit loc 3 (4194304 + 3) 3 ∧ (∀ i < trbpp 0x24, ¬ holdsPixelBit loc i 3 4)) ∧
    trbpp 0x24 ≤ 4 ∧ (0x02 : BitVec 6) ∉ placedFormats.map Prod.fst := by decide

theorem test_witness_DataFrame :
    let s := transferStart 0#2 (transfer 0 0 2 1 0)
    s.xfer.Ok ∧ (∃ t, exec (.adHwreg 7) s = .next t) ∧ (∃ t, exec (.giftagImage (.data 7)) s = .next t) ∧ s.pending = false :=
  ⟨armed_ok .., ⟨_, rfl⟩, ⟨_, rfl⟩, by decide⟩

/-- No Write armed; a Read armed; a Write whose bytes are all there. -/
theorem test_witness_UnusableDataDropped :
    setup.xfer.mode ≠ .write ∧ (armed .read 0 0 2 1 32).xfer.mode ≠ .write ∧
    (let s := { armed .write 0 0 2 1 32 with xfer := { (armed .write 0 0 2 1 32).xfer with done := 8 } }; s.xfer.total ≤ s.xfer.done) := by
  decide

theorem test_witness_SplitDataSameResult :
    let s := armed .write 0 0 2 1 32
    ∃ a b c, exec (.giftagImage (.data 7)) s = .next a ∧ exec (.adHwreg (bits (7 : Qword) 0 64)) s = .next b ∧
      exec (.adHwreg (bits (7 : Qword) 64 64)) b = .next c := ⟨_, _, _, rfl, rfl, rfl⟩

/-- A Read of 24-bit pixels, one that stands inside a pixel after a first call of 16 bytes, and one of 4-bit pixels that ends in padding before the call
does. -/
theorem test_witness_ReadFifoDeliversPixels :
    (let s := atCall (.readFIFO 1) (transferStart 1#2 (transfer 1 0 8 1 0));
      AtCall s (.readFIFO 1) [] ∧ ReadArmed s.xfer) ∧
    (let x := { (armed .read 1 0 8 1 24).xfer with cx := 6, done := 16, pcount := 16, pbits := 0x1234 };
      ReadArmed x ∧ givenBytes x 16 = 8 ∧ fetched x 16 = 2) ∧
    (let s := atCall (.readFIFO 1) (transferStart 1#2 (transfer 0x24 0 3 1 0));
      AtCall s (.readFIFO 1) [] ∧ ReadArmed s.xfer ∧ givenBytes s.xfer 16 = 2 ∧ fetched s.xfer 16 = 3) :=
  ⟨⟨⟨rfl, rfl, rfl⟩, armed_ok .., by decide, by decide⟩,
    ⟨⟨((Xfer.legal_iff _).1 (by decide)).1, rfl, by decide⟩, by decide, by decide⟩,
    ⟨⟨rfl, rfl, rfl⟩, ⟨armed_ok .., by decide, by decide⟩, by decide, by decide⟩⟩

/-- No Read armed; a Read whose bytes are all taken. -/
theorem test_witness_SurplusReadFifoOnlyReports :
    (AtCall (atCall (.readFIFO 2) setup) (.readFIFO 2) [] ∧ setup.xfer.mode ≠ .read) ∧
    (let s := { armed .read 0 0 2 1 32 with xfer := { (armed .read 0 0 2 1 32).xfer with done := 8 } }; s.xfer.total ≤ s.xfer.done) :=
  ⟨⟨⟨rfl, rfl, rfl⟩, by decide⟩, by decide⟩

/-- A partial qword; another path mid-tag; a call that is taken. -/
theorem test_witness_TransferChecks :
    AtCall (atCall (.transfer .p0 [1] 1) setup) (.transfer .p0 [1] 1) [] ∧ [(1 : Byte)].length ≠ 16 * 1 ∧
    (let s := atCall (.transfer .p0 [] 0) { setup with path1 := ⟨0, 1, 0⟩ };
      AtCall s (.transfer .p0 [] 0) [] ∧ ∃ x, x ≠ PathId.p0 ∧ (s.path x).nloop ≠ 0#15) ∧
    (¬ ∃ x, x ≠ PathId.p0 ∧ (setup.path x).nloop ≠ 0#15) :=
  ⟨⟨rfl, rfl, rfl⟩, by decide, ⟨⟨rfl, rfl, rfl⟩, .p1, by decide, by decide⟩, fun ⟨x, _, h⟩ => by cases x <;> exact h rfl⟩

/-- A running block between calls, and a stopped one in the middle of anything. -/
theorem test_witness_PowerOnResetsBlock :
    (let s := atCall .powerOn pendingList; s.calls = [.powerOn] ∧ s.feed.qwords = []) ∧
    (let s := atCall .powerOn { pendingList with fault := some .bufferExhausted, feed := ⟨.p2, [7], false⟩ };
      s.calls = [.powerOn] ∧ s.stuck = true) := by decide

theorem test_witness_calls :
    AtCall (atCall (.softReset 5) pendingList) (.softReset 5) [] ∧
    AtCall (atCall (.reconfigure true true false) setup) (.reconfigure true true false) [] :=
  ⟨⟨rfl, rfl, rfl⟩, ⟨rfl, rfl, rfl⟩⟩

/-- FreezeDefrostRoundTrip: a state to save, a block to restore it into, and a safe state. -/
theorem test_witness_FreezeDefrostRoundTrip :
    AtCall (atCall .freeze pendingList) .freeze [] ∧
    AtCall (atCall (.defrost (frozen (imageOf pendingList))) setup) (.defrost (frozen (imageOf pendingList))) [] ∧
    (imageOf (atCall .freeze pendingList)).Ok setup.cfg ∧ pendingList.Safe ∧
    thawed setup.cfg (frozen (imageOf pendingList)) = some (imageOf pendingList) :=
  ⟨⟨rfl, rfl, rfl⟩, ⟨rfl, rfl, rfl⟩, pendingList_image,
    ⟨rfl, pendingList_image.reserved, ⟨pendingList_image.cursors, pendingList_image.fits, fun _ => pendingList_image.between⟩,
      pendingList_image.win, pendingList_image.xfer, by decide⟩, thawed_frozen pendingList_image⟩

/-- The invariants hold of a state with a group pending, whose next call restores an image; and it steps. -/
theorem pendingList_queueOk : pendingList.QueueOk :=
  ⟨pendingList_image.cursors, pendingList_image.fits, fun _ => pendingList_image.between⟩

theorem test_witness_invariants :
    let s := atCall (.defrost (frozen (imageOf pendingList))) pendingList
    s.ReservedClear ∧ s.QueueOk ∧ s.win.Ok ∧ s.xfer.Ok ∧ s.mem.wf = true ∧ s.StuckIdle ∧ s.fault = none ∧ ∃ t, step s = .next t :=
  ⟨pendingList_image.reserved, ⟨pendingList_queueOk.cursors, pendingList_queueOk.fits, pendingList_queueOk.between⟩, pendingList_image.win,
    pendingList_image.xfer, by decide, fun h => absurd h (by decide), rfl, _, rfl⟩

/-- DrawsNameTheirVertices: a step that draws. -/
theorem test_witness_DrawsNameTheirVertices :
    let s := atCall .flushRequest pendingList
    s.QueueOk ∧ s.fault = none ∧ ∃ t, step s = .next t ∧
      ∃ snap vs is cls, Event.draw snap vs is cls ∈ t.out ∧ Event.draw snap vs is cls ∉ s.out :=
  ⟨⟨pendingList_queueOk.cursors, pendingList_queueOk.fits, pendingList_queueOk.between⟩, rfl, _, rfl, _, _, _, _, List.mem_singleton.2 rfl, by intro h; cases h⟩

/-- StopIsSticky: a stopped block with another call, with PowerOn, and with none, by a fault and by a refusal. -/
theorem test_witness_StopIsSticky :
    (let s := atCall .flushRequest { setup with fault := some .bufferExhausted };
      s.stuck = true ∧ s.StuckIdle ∧ s.calls = [.flushRequest] ∧ HostCall.flushRequest ≠ .powerOn) ∧
    (let s := atCall .powerOn { setup with refused := some .partialQword }; s.stuck = true ∧ s.calls = [.powerOn]) ∧
    (let s := { setup with fault := some .bufferExhausted }; s.stuck = true ∧ s.calls = []) ∧
    (let s := { setup with refused := some .badSnapshot }; s.stuck = true ∧ s.calls = []) :=
  ⟨⟨rfl, fun _ => rfl, rfl, by decide⟩, by decide, by decide, by decide⟩

end Sys2Proof.Machine.Tests
end

section
/-! PROOFS. What an instruction and a step can do to the block, as small updates, so that each invariant of the family 10_state is one
induction over them. -/

namespace Sys2Proof.Machine

/-! ## Reads keep the latched registers (44_transfer R377) -/

theorem fillLoop_latched (k : Nat) (s : State) :
    (fillLoop k s).xfer.blit = s.xfer.blit ∧ (fillLoop k s).xfer.pos = s.xfer.pos := by
  induction k generalizing s with
  | zero => exact ⟨rfl, rfl⟩
  | succ k ih =>
    unfold fillLoop
    split
    · split
      · have h := ih (fetchPixel s)
        exact ⟨h.1.trans (advance_blit _), h.2.trans (advance_pos _)⟩
      · exact ih { s with xfer := { s.xfer with pcount := 8 } }
    · exact ⟨rfl, rfl⟩

theorem readByte_latched (s : State) :
    (readByte s).1.xfer.blit = s.xfer.blit ∧ (readByte s).1.xfer.pos = s.xfer.pos := by
  unfold readByte
  split
  · have h := fillLoop_latched 8 s
    have h2 := Xfer.finishIfDone_latched
      { (fillLoop 8 s).xfer.dropBits 8 with done := (fillLoop 8 s).xfer.done + 1 }
    exact ⟨h2.1.trans h.1, h2.2.trans h.2⟩
  · exact ⟨rfl, rfl⟩

theorem readBytes_latched (n : Nat) (s : State) :
    (readBytes n s).1.xfer.blit = s.xfer.blit ∧ (readBytes n s).1.xfer.pos = s.xfer.pos := by
  induction n generalizing s with
  | zero => exact ⟨rfl, rfl⟩
  | succ n ih => exact ⟨(ih _).1.trans (readByte_latched s).1, (ih _).2.trans (readByte_latched s).2⟩

/-! ## Runs of the engine -/

/-- A whole run of the transfer engine: made of its parts, its fields in order again at the end, its latched registers those it had or
those of the environment (44_transfer R362, R371). -/
structure EngineRun (s t : State) : Prop where
  reach : XferReach s t
  ok : s.xfer.Ok → t.xfer.Ok
  latched : (t.xfer.blit = s.xfer.blit ∧ t.xfer.pos = s.xfer.pos) ∨
    (t.xfer.blit = s.env.bitbltbuf ∧ t.xfer.pos = s.env.trxpos)

theorem xferData_run (bs : List Byte) (s : State) : EngineRun s (xferData bs s) :=
  ⟨xferData_reach bs s, fun h => (xferData_ok bs h).1, .inl (xferData_latched bs s)⟩

theorem readFIFO_run (n : Nat) (s : State) : EngineRun s (readFIFO n s) :=
  ⟨readFIFO_reach n s, fun h => (readFIFO_ok n h).1, .inl (readBytes_latched (16 * n) s)⟩

theorem move_xfer (s : State) : (move s).xfer = s.xfer := by simp [move]

theorem transferStart_latched (x : BitVec 2) (s : State) :
    (transferStart x s).xfer.blit = s.env.bitbltbuf ∧ (transferStart x s).xfer.pos = s.env.trxpos := by
  unfold transferStart
  dsimp only
  split
  case h_3 => rw [move_xfer]; exact ⟨rfl, rfl⟩
  all_goals exact ⟨rfl, rfl⟩

theorem transferStart_run (x : BitVec 2) (s : State) : EngineRun s (transferStart x s) :=
  ⟨transferStart_reach x s, transferStart_ok x, .inr (transferStart_latched x s)⟩

/-! ## The updates an instruction is made of -/

/-- The updates that instructions and the host calls on a running block are made of; only the parser state of the path of the feed call
in progress is among them. -/
inductive Reach (s : State) : State → Prop where
  | refl : Reach s s
  | flush {t : State} : Reach s t → Reach s (flush t)
  | env {t : State} (r : EnvReg) {v : Word64} : v &&& ~~~r.mask = 0 → Reach s t → Reach s (setEnv r v t)
  | ctx {t : State} (r : CtxReg) (c : CtxId) {v : Word64} : v &&& ~~~r.mask = 0 → Reach s t → Reach s (setCtxReg r c v t)
  | accumulator {t : State} (a : VAcc) (q : BitVec 32) : Reach s t → Reach s { t with vacc := a, qint := q }
  | queue {t : State} (q : VertexQueue) : Reach s t → Reach s { t with vq := q }
  | window {t : State} (c : Ctx) (x y : BitVec 16) : Reach s t → Reach s { t with win := t.win.push (relativeXY c x y) }
  | path {t : State} (v : PathState) : Reach s t → Reach s (t.setPath t.feed.path v)
  | raise {t : State} (f : Fault) : Reach s t → Reach s (raise f t)
  | refuse {t : State} (r : Refusal) : Reach s t → Reach s (refuse r t)
  | engine {t u : State} : EngineRun t u → Reach s t → Reach s u

theorem pushVertex_reach {s t : State} (x y : BitVec 16) (z : BitVec 32) (h : Reach s t) : Reach s (pushVertex x y z t) :=
  .window (t.ctx t.actx) x y (.queue (t.vq.append ⟨x, y, z, t.vacc⟩) h)

theorem kick_reach {s t : State} (x y : BitVec 16) (z : BitVec 32) (skip : Bool) (h : Reach s t) : Reach s (kick x y z skip t) :=
  have hp := pushVertex_reach x y z h
  kick_rel (P := fun _ u => Reach s u) x y z skip (.raise _ h) (.raise _ hp) (fun q => .queue q hp) fun q => .flush (.queue q hp)

/-- A PRIM field of 11 bits has no reserved bit (10_state R55). -/
theorem prim_clear (v : BitVec 11) : v.setWidth 64 &&& ~~~EnvReg.prim.mask = 0 := by
  have hlow : ∀ i < 11, (~~~EnvReg.prim.mask).getLsbD i = false := by decide
  refine BitVec.eq_of_getLsbD_eq fun i _ => ?_
  rw [BitVec.getLsbD_and]
  by_cases h : i < 11
  · rw [hlow i h, Bool.and_false]; simp
  · simp [BitVec.getLsbD_of_ge v i (Nat.le_of_not_lt h)]

theorem applyPrim_reach {s t : State} (v : BitVec 11) (h : Reach s t) : Reach s (applyPrim v t) := by
  unfold applyPrim
  split
  · exact .queue _ (.env .prim (prim_clear v) (.flush h))
  · exact .queue _ (.env .prim (prim_clear v) h)

theorem tagStart_reach (flg : BitVec 2) (t : TagFields) (s : State) : Reach s (tagStart flg t s) := by
  have hp : Reach s (s.setPath s.feed.path ⟨encodeTag flg t, t.nloop, 0#4⟩) := .path _ .refl
  unfold tagStart
  dsimp only
  split
  · exact hp
  · split
    · exact applyPrim_reach _ (.accumulator _ qintOne hp)
    · exact .accumulator _ qintOne hp

theorem imageQword_reach (q : Qword) (s : State) : Reach s (imageQword q s) := by
  have h : Reach s (xferData (bytesOf 16 q) s) := .engine (xferData_run _ s) .refl
  unfold imageQword
  generalize xferData (bytesOf 16 q) s = t at h
  exact .path _ h

theorem Effect.reach {s t : State} (h : Effect s t) : Reach s t := by
  cases h with
  | none => exact .refl
  | env r v => unfold caWriteEnv; split; exacts [.env r (r.stored_clear v) (.flush .refl), .env r (r.stored_clear v) .refl]
  | ctx r c v => unfold caWriteCtx; split; exacts [.ctx r c (r.stored_clear v) (.flush .refl), .ctx r c (r.stored_clear v) .refl]
  | prmode v =>
    have hc := EnvReg.prmode.stored_clear v
    unfold prmodeWrite; split; exacts [.env .prmode hc (.flush .refl), .env .prmode hc .refl]
  | prim v => exact applyPrim_reach v .refl
  | accumulator a q => exact .accumulator a q .refl
  | kickF x y z f skip => exact kick_reach x y z skip (.accumulator (s.vacc.setFog f) s.qint .refl)
  | kick x y z skip => exact kick_reach x y z skip .refl
  | trxdir v => exact .engine (transferStart_run _ _) (.env .trxdir (EnvReg.trxdir.stored_clear v) (.flush .refl))
  | data bs => exact .engine (xferData_run bs s) .refl
  | tag flg t => exact tagStart_reach flg t s
  | image q => exact imageQword_reach q s
  | reserved => exact .refuse _ .refl

/-! ## What a step can do -/

/-- t differs from s in the parser, the host's side and the configuration only. -/
def SameBlock (s t : State) : Prop :=
  t = { s with
    path0 := t.path0, path1 := t.path1, path2 := t.path2, path3 := t.path3, feed := t.feed, cfg := t.cfg, calls := t.calls,
    blobs := t.blobs }

theorem SameButParser.block {s t : State} (h : SameButParser s t) : SameBlock s t := by
  unfold SameBlock; rw [h]

/-- What a host call other than PowerOn does to a running block (70_reset_and_hazards R450). -/
inductive CallCase (s : State) : State → Prop where
  | reach {t : State} : Reach s t → CallCase s t
  | block {t : State} : SameBlock s t → CallCase s t
  | restore {b : Image} : b.Ok s.cfg → CallCase s (restore b s)

theorem startTransfer_cases (p : PathId) (bytes : List Byte) (size : Nat) (s : State) : CallCase s (startTransfer p bytes size s) := by
  unfold startTransfer
  split
  · exact .reach (.refuse _ .refl)
  · split
    · exact .reach (.refuse _ .refl)
    · exact .block rfl

theorem defrost_cases (blob : Blob) (s : State) : CallCase s (defrost blob s) := by
  unfold defrost
  split
  · next h => exact .restore (thawed_ok h)
  · exact .reach (.refuse _ .refl)

theorem hostCall_cases {c : HostCall} (hc : c ≠ .powerOn) (s : State) : CallCase s (hostCall c s) := by
  cases c with
  | powerOn => exact absurd rfl hc
  | transfer p bytes size => exact startTransfer_cases p bytes size s
  | softReset mask => exact .block rfl
  | flushRequest => exact .reach (.flush .refl)
  | readFIFO n => exact .reach (.engine (readFIFO_run n s) .refl)
  | reconfigure a u k => exact .block rfl
  | freeze => exact .block rfl
  | defrost blob => exact defrost_cases blob s

/-- A step is a PowerOn call, or it keeps whatever does not look at the parser, the host's side and the configuration, and is kept by the
updates and by a Defrost. -/
theorem step_keeps {P : State → Prop} (hblock : ∀ {s t}, SameBlock s t → P s → P t) (hreach : ∀ {s t}, Reach s t → P s → P t)
    (hrestore : ∀ {b s}, b.Ok s.cfg → P s → P (restore b s)) {s t : State} (h : step s = .next t) (hs : P s) :
    P t ∨ ∃ rest, s.calls = .powerOn :: rest ∧ (s.stuck = true ∨ s.feed.qwords = []) ∧ t = powerOn { s with calls := rest } := by
  have htake : ∀ rest, P { s with calls := rest } := fun _ => hblock rfl hs
  cases step_cases h with
  | stuckPower rest hst hc => exact .inr ⟨rest, hc, .inl hst, rfl⟩
  | stuckDrop c rest => exact .inl (htake rest)
  | unit u q rest _ _ _ he => exact .inl (hblock (finishUnit_parser _ u).block (hreach he.reach hs))
  | call c rest _ hq hc =>
    by_cases hp : c = .powerOn
    · subst hp; exact .inr ⟨rest, hc, .inr hq, rfl⟩
    · have hcase := hostCall_cases hp { s with calls := rest }
      generalize hostCall c { s with calls := rest } = u at hcase
      cases hcase with
      | reach hr => exact .inl (hreach hr (htake rest))
      | block hb => exact .inl (hblock hb (htake rest))
      | restore hb => exact .inl (hrestore hb (htake rest))
  | idle => exact .inl hs

/-- An invariant that PowerOn brings about as well is kept by every step. -/
theorem step_invariant {P : State → Prop} (hblock : ∀ {s t}, SameBlock s t → P s → P t) (hreach : ∀ {s t}, Reach s t → P s → P t)
    (hrestore : ∀ {b s}, b.Ok s.cfg → P s → P (restore b s)) (hpower : ∀ s, P (powerOn s)) {s t : State} (h : step s = .next t)
    (hs : P s) : P t := by
  obtain hP | ⟨rest, _, _, rfl⟩ := step_keeps hblock hreach hrestore h hs
  · exact hP
  · exact hpower _

end Sys2Proof.Machine
end

section
/-! PROOFS. The invariants of 10_state that every step keeps: reserved bits (R36), the window (R45), the transfer engine (R47), the
canonical form of memory (log 5), and the events (R52). -/

namespace Sys2Proof.Machine

/-- What Freeze would save right after power-on is in order. -/
theorem reset_image_ok : (imageOf State.reset).Ok State.reset.cfg := (Image.legal_iff _ _).1 (by decide)

/-! ## Reserved bits (10_state R36) -/

/-- Reserved bits are a matter of the registers and of the two latched ones. -/
theorem State.reservedClear_iff (s : State) : s.ReservedClear ↔ s.env.reservedClear ∧ s.ctx0.reservedClear ∧ s.ctx1.reservedClear ∧
    s.xfer.blit &&& ~~~EnvReg.bitbltbuf.mask = 0 ∧ s.xfer.pos &&& ~~~EnvReg.trxpos.mask = 0 :=
  ⟨fun ⟨he, h0, h1, hb, hp⟩ => ⟨he, h0, h1, hb, hp⟩, fun ⟨he, h0, h1, hb, hp⟩ => ⟨he, h0, h1, hb, hp⟩⟩

theorem State.ReservedClear.congr {s t : State} (h : s.ReservedClear) (he : t.env = s.env) (h0 : t.ctx0 = s.ctx0) (h1 : t.ctx1 = s.ctx1)
    (hx : t.xfer.blit = s.xfer.blit ∧ t.xfer.pos = s.xfer.pos) : t.ReservedClear := by
  rw [State.reservedClear_iff] at h ⊢
  rwa [he, h0, h1, hx.1, hx.2]

theorem SameBlock.reservedClear {s t : State} (h : SameBlock s t) (hs : s.ReservedClear) : t.ReservedClear :=
  hs.congr (by rw [h]) (by rw [h]) (by rw [h]) (by rw [h]; exact ⟨rfl, rfl⟩)

theorem setEnv_reservedClear {s : State} (h : s.ReservedClear) (r : EnvReg) {v : Word64} (hv : v &&& ~~~r.mask = 0) :
    (setEnv r v s).ReservedClear :=
  ⟨Env.reservedClear_set h.env r hv, h.ctx0, h.ctx1, h.blit, h.pos⟩

theorem setCtxReg_reservedClear {s : State} (h : s.ReservedClear) (r : CtxReg) (c : CtxId) {v : Word64} (hv : v &&& ~~~r.mask = 0) :
    (setCtxReg r c v s).ReservedClear := by
  cases c with
  | c0 => exact ⟨h.env, Ctx.reservedClear_set h.ctx0 r hv, h.ctx1, h.blit, h.pos⟩
  | c1 => exact ⟨h.env, h.ctx0, Ctx.reservedClear_set h.ctx1 r hv, h.blit, h.pos⟩

/-- A run of the engine latches registers of the environment, or none. -/
theorem EngineRun.reservedClear {s t : State} (h : EngineRun s t) (hs : s.ReservedClear) : t.ReservedClear := by
  obtain ⟨hr, _, ⟨hb, hp⟩ | ⟨hb, hp⟩⟩ := h
  · exact hs.congr hr.env hr.ctx0 hr.ctx1 ⟨hb, hp⟩
  · have he := hs.env
    rw [State.reservedClear_iff, hr.env, hr.ctx0, hr.ctx1, hb, hp]
    exact ⟨he, hs.ctx0, hs.ctx1, he .bitbltbuf, he .trxpos⟩

theorem Reach.reservedClear {s t : State} (h : Reach s t) (hs : s.ReservedClear) : t.ReservedClear := by
  induction h with
  | flush _ ih => exact ih.congr (by simp) (by simp) (by simp) (by simp)
  | env r hv _ ih => exact setEnv_reservedClear ih r hv
  | ctx r c hv _ ih => exact setCtxReg_reservedClear ih r c hv
  | path v _ ih => exact ih.congr (by simp) (by simp) (by simp) (by simp)
  | engine hrun _ ih => exact hrun.reservedClear ih
  | refl => exact hs
  | accumulator _ _ _ ih | queue _ _ ih | window _ _ _ _ ih | raise _ _ ih | refuse _ _ ih => exact ih.congr rfl rfl rfl ⟨rfl, rfl⟩

theorem powerOn_reservedClear (s : State) : (powerOn s).ReservedClear :=
  State.ReservedClear.congr (s := State.reset) reset_image_ok.reserved rfl rfl rfl ⟨rfl, rfl⟩

/-- Settles O53: no update sets a reserved bit, and a Defrost takes no image that has one. -/
theorem stepKeepsReservedBitsClear : Obligations.StepKeepsReservedBitsClear := fun _ _ hs h =>
  step_invariant SameBlock.reservedClear Reach.reservedClear (fun hb _ => hb.reserved) powerOn_reservedClear h hs

/-! ## The transfer engine (10_state R47) -/

theorem Reach.xfer_ok {s t : State} (h : Reach s t) (hs : s.xfer.Ok) : t.xfer.Ok := by
  induction h with
  | flush _ ih => rwa [flush_xfer]
  | ctx r c _ _ ih => rwa [setCtxReg_xfer]
  | path v _ ih => rwa [setPath_xfer]
  | engine hrun _ ih => exact hrun.ok ih
  | _ => assumption

/-- Settles O55: a run of the engine leaves its fields in their ranges, nothing else touches them, and a Defrost takes no image with a
field out of range. -/
theorem stepKeepsEngineInRange : Obligations.StepKeepsEngineInRange := fun _ _ hs h =>
  step_invariant (P := fun s => s.xfer.Ok) (fun hb hs => by rw [hb]; exact hs) Reach.xfer_ok (fun hb _ => hb.xfer)
    (fun _ => reset_image_ok.xfer) h hs

/-! ## Memory (log 5) -/

theorem Reach.wf {s t : State} (h : Reach s t) (hs : s.mem.wf = true) : t.mem.wf = true := by
  induction h with
  | flush _ ih => exact flush_wf ih
  | ctx r c _ _ ih => rwa [setCtxReg_mem]
  | path v _ ih => rwa [setPath_mem]
  | engine hrun _ ih => exact hrun.reach.wf ih
  | _ => assumption

/-- Settles O56: flushes and the engine store in the canonical form, and PowerOn's memory lists nothing. -/
theorem stepKeepsMemoryCanonical : Obligations.StepKeepsMemoryCanonical := fun _ _ hs h =>
  step_invariant (P := fun s => s.mem.wf = true) (fun hb hs => by rw [hb]; exact hs) Reach.wf (fun _ hs => hs)
    (fun s => wf_empty s.freeCount) h hs

/-! ## The window (10_state R45) -/

/-- The difference of two 16-bit coordinates is a signed 18-bit integer (42_vertex_kick R304). -/
theorem relativeXY_ok (c : Ctx) (x y : BitVec 16) : (relativeXY c x y).Ok := by
  have hx := x.isLt
  have hy := y.isLt
  have hox : ofx c < 2 ^ 16 := (bits c.xyoffset 0 16).isLt
  have hoy : ofy c < 2 ^ 16 := (bits c.xyoffset 32 16).isLt
  constructor <;> simp only [relativeXY] <;> omega

theorem push_ok {w : Window} {e : XY} (hw : w.Ok) (he : e.Ok) : (w.push e).Ok := by
  obtain ⟨h0, h1, h2, h3⟩ := hw
  unfold Window.push
  split
  · exact ⟨he, h1, h2, h3⟩
  · exact ⟨h0, he, h2, h3⟩
  · exact ⟨h0, h1, he, h3⟩
  · exact ⟨h0, h1, h2, he⟩

/-- A push at each of the four counts. -/
theorem back_push (w : Window) (e : XY) :
    (w.push e).back 1 = e ∧ (w.push e).back 2 = w.back 1 ∧ (w.push e).back 3 = w.back 2 ∧ (w.push e).back 4 = w.back 3 ∧
      (w.push e).count = w.count + 1 ∧ (w.push e).get w.count = e := by
  obtain ⟨e0, e1, e2, e3, c⟩ := w
  match c with
  | 0 => exact ⟨rfl, rfl, rfl, rfl, rfl, rfl⟩
  | 1 => exact ⟨rfl, rfl, rfl, rfl, rfl, rfl⟩
  | 2 => exact ⟨rfl, rfl, rfl, rfl, rfl, rfl⟩
  | 3 => exact ⟨rfl, rfl, rfl, rfl, rfl, rfl⟩

theorem Reach.win_ok {s t : State} (h : Reach s t) (hs : s.win.Ok) : t.win.Ok := by
  induction h with
  | flush _ ih => rwa [flush_win]
  | ctx r c _ _ ih => rwa [setCtxReg_win]
  | path v _ ih => rwa [setPath_win]
  | window c x y _ ih => exact push_ok ih (relativeXY_ok c x y)
  | engine hrun _ ih => rwa [hrun.reach.win]
  | _ => assumption

/-- Settles O27: a push replaces the oldest entry, and only relative positions are pushed. -/
theorem windowHoldsLastFour : Obligations.WindowHoldsLastFour :=
  ⟨back_push, fun _ _ hs h =>
    step_invariant (P := fun s => s.win.Ok) (fun hb hs => by rw [hb]; exact hs) Reach.win_ok (fun hb _ => hb.win)
      (fun _ => reset_image_ok.win) h hs⟩

/-! ## The events (10_state R52) -/

/-- u's events are s's followed by new ones. -/
def EventsExtend (s u : State) : Prop := ∃ es, u.out = s.out ++ es

theorem EventsExtend.append {s t u : State} (h : EventsExtend s t) (hu : ∃ es, u.out = t.out ++ es) : EventsExtend s u := by
  obtain ⟨es, h⟩ := h
  obtain ⟨fs, hu⟩ := hu
  exact ⟨es ++ fs, by rw [hu, h, List.append_assoc]⟩

theorem EventsExtend.congr {s t u : State} (h : EventsExtend s t) (hu : u.out = t.out) : EventsExtend s u :=
  h.append ⟨[], by rw [hu, List.append_nil]⟩

theorem Reach.eventsExtend {s₀ s t : State} (h : Reach s t) (hs : EventsExtend s₀ s) : EventsExtend s₀ t := by
  induction h with
  | flush _ ih => exact ih.append ⟨_, flush_out _⟩
  | ctx r c _ _ ih => exact ih.congr (by simp)
  | path v _ ih => exact ih.congr (by simp)
  | engine hrun _ ih => exact ih.append hrun.reach.out_grows
  | _ => assumption

/-- Settles O58: every update but PowerOn keeps the events or appends to them. -/
theorem eventsOnlyAppended : Obligations.EventsOnlyAppended := fun s _ h =>
  (step_keeps (P := EventsExtend s) (fun hb hs => hs.congr (by rw [hb])) Reach.eventsExtend (fun _ hs => hs) h ⟨[], by simp⟩).imp_right
    fun ⟨rest, hc, hr, ht⟩ => ⟨rest, hc, hr, by rw [ht]; rfl⟩

/-! ## A stopped block (10_state R51, 60_exceptions R401, 70_reset_and_hazards R450) -/

theorem State.StuckIdle.of_running {s : State} (h : s.stuck = false) : s.StuckIdle := fun hs => by simp [h] at hs

theorem State.StuckIdle.congr {s t : State} (h : s.StuckIdle) (hf : t.fault = s.fault) (hr : t.refused = s.refused)
    (hq : t.feed = s.feed) : t.StuckIdle := fun hs => by
  rw [hq]
  exact h (by simpa only [State.stuck, hf, hr] using hs)

/-- A fault and a refusal end the feed call, and no other update stops the block. -/
theorem Reach.stuckIdle {s t : State} (h : Reach s t) (hs : s.StuckIdle) : t.StuckIdle := by
  induction h with
  | flush _ ih => exact ih.congr (by simp) (by simp) (by simp)
  | ctx r c _ _ ih => exact ih.congr (by simp) (by simp) (by simp)
  | path v _ ih => exact ih.congr (by simp) (by simp) (by simp)
  | raise f _ _ => exact fun _ => rfl
  | refuse r _ _ => exact fun _ => rfl
  | engine hrun _ ih => exact ih.congr hrun.reach.fault hrun.reach.refused hrun.reach.feed
  | _ => assumption

theorem SameBlock.stuck {s t : State} (h : SameBlock s t) : t.stuck = s.stuck := by rw [h]; rfl

/-- What follows an instruction moves the feed call on only in a block that runs. -/
theorem finishUnit_stuckIdle {s : State} (c : UnitCtx) (h : s.StuckIdle) : (finishUnit c s).StuckIdle := by
  unfold finishUnit
  split
  · exact h
  · next hf =>
    split
    · exact fun _ => rfl
    · next hr =>
      refine .of_running ?_
      rw [(advance_parser c s).block.stuck]
      simp [State.stuck, hf, hr]

theorem hostCall_stuckIdle {s : State} (c : HostCall) (h : s.stuck = false) : (hostCall c s).StuckIdle := by
  by_cases hp : c = .powerOn
  · subst hp; exact .of_running rfl
  · have hcase := hostCall_cases hp s
    generalize hostCall c s = t at hcase
    cases hcase with
    | reach hr => exact hr.stuckIdle (.of_running h)
    | block hb => exact .of_running (hb.stuck.trans h)
    | restore _ => exact .of_running h

theorem step_stuckIdle {s t : State} (hs : s.StuckIdle) (h : step s = .next t) : t.StuckIdle := by
  cases step_cases h with
  | stuckPower rest => exact .of_running rfl
  | stuckDrop c rest => exact hs
  | unit u q rest hrun _ _ he => exact finishUnit_stuckIdle _ (he.reach.stuckIdle (.of_running hrun))
  | call c rest hrun => exact hostCall_stuckIdle c hrun
  | idle => exact hs

theorem step_of_stuck {s : State} (h : s.stuck = true) : step s = stuckStep s := by simp [step, h]

theorem stuckStep_call {s : State} {c : HostCall} {rest : List HostCall} (h : s.calls = c :: rest) :
    stuckStep s = .next (stuckCall c { s with calls := rest }) := by simp [stuckStep, h]

theorem stuckCall_of_ne {c : HostCall} (h : c ≠ .powerOn) (s : State) : stuckCall c s = s := by
  cases c with
  | powerOn => exact absurd rfl h
  | _ => rfl

theorem stuckStep_idle {s : State} (hs : s.stuck = true) (h : s.calls = []) :
    (∃ f, s.fault = some f ∧ stuckStep s = .fault f) ∨ (∃ r, s.fault = none ∧ s.refused = some r ∧ stuckStep s = .refused r) := by
  cases hf : s.fault with
  | some f => exact .inl ⟨f, rfl, by simp [stuckStep, h, hf]⟩
  | none =>
    cases hr : s.refused with
    | some r => exact .inr ⟨r, rfl, rfl, by simp [stuckStep, h, hf, hr]⟩
    | none => simp [State.stuck, hf, hr] at hs

/-- Settles O59: the stop ends the feed call, and a stuck step takes no call but PowerOn. -/
theorem stopIsSticky : Obligations.StopIsSticky := by
  refine ⟨fun _ _ => step_stuckIdle, fun s hs => ?_⟩
  rw [step_of_stuck hs]
  refine ⟨fun c rest hc hp => ?_, fun rest hc => ?_, stuckStep_idle hs⟩
  · rw [stuckStep_call hc, stuckCall_of_ne hp]
  · exact ⟨_, stuckStep_call hc, rfl⟩

/-! ## Power-on (10_state R53, R54) -/

/-- A PowerOn call is taken by a block that is stuck or between feed calls. -/
theorem step_powerOn {s : State} {rest : List HostCall} (hc : s.calls = .powerOn :: rest) (h : s.stuck = true ∨ s.feed.qwords = []) :
    step s = .next (powerOn { s with calls := rest }) := by
  by_cases hs : s.stuck = true
  · rw [step_of_stuck hs, stuckStep_call hc]; rfl
  · have hq := h.resolve_left hs
    simp [step, hs, hq, callStep, hc, hostCall]

/-- Settles O49: the state after a PowerOn call, component by component. -/
theorem powerOnResetsBlock : Obligations.PowerOnResetsBlock := by
  intro s rest hc h
  refine ⟨_, step_powerOn hc h, fun p => ?_, fun r => ?_, fun c r => ?_, rfl, rfl, rfl, rfl, rfl, rfl, rfl, rfl⟩
  · cases p <;> rfl
  · cases r <;> rfl
  · cases c <;> cases r <;> rfl

theorem reset_safe : State.reset.Safe where
  running := rfl
  reserved := reset_image_ok.reserved
  queue := ⟨reset_image_ok.cursors, reset_image_ok.fits, fun _ => reset_image_ok.between⟩
  win := reset_image_ok.win
  xfer := reset_image_ok.xfer
  mem := wf_empty 0

/-- Settles O60: the power-on state, evaluated. -/
theorem resetIsSafe : Obligations.ResetIsSafe :=
  ⟨reset_safe, .of_running rfl, rfl, rfl, rfl, fun c => by cases c <;> rfl, rfl, rfl⟩

end Sys2Proof.Machine
end

section
/-! PROOFS. The parser state of a path that no feed call is in progress on is neither read nor written (10_state R31): each operation
commutes with replacing it. -/

namespace Sys2Proof.Machine

variable (s : State) (p : PathId) (v : PathState)

/-! ## Selectors do not read a path -/

@[simp] theorem setPath_pending : (s.setPath p v).pending = s.pending := by simp [State.pending]
@[simp] theorem setPath_stuck : (s.setPath p v).stuck = s.stuck := by simp [State.stuck]
@[simp] theorem setPath_ac : (s.setPath p v).ac = s.ac := by simp [State.ac]
@[simp] theorem setPath_attr : (s.setPath p v).attr = s.attr := attr_congr (by simp)
@[simp] theorem setPath_actx : (s.setPath p v).actx = s.actx := actx_congr (by simp)
@[simp] theorem setPath_topology : (s.setPath p v).topology = s.topology := topology_congr (by simp) (by simp)
@[simp] theorem setPath_ctx (c : CtxId) : (s.setPath p v).ctx c = s.ctx c := ctx_eq (by simp) (by simp) c
@[simp] theorem hazard_setPath : hazard (s.setPath p v) = hazard s := by simp [hazard]
@[simp] theorem reject_setPath (t : Topology) (m : Nat) : reject (s.setPath p v) t m = reject s t m := by simp [reject]
@[simp] theorem primFlushes_setPath (x : BitVec 11) : primFlushes x (s.setPath p v) = primFlushes x s := by simp [primFlushes]

/-! ## Updates commute with it -/

theorem setPath_with_xfer (x : Xfer) : ({ s.setPath p v with xfer := x } : State) = State.setPath { s with xfer := x } p v := by
  cases p <;> rfl

theorem setPath_with_vq (q : VertexQueue) : ({ s.setPath p v with vq := q } : State) = State.setPath { s with vq := q } p v := by
  cases p <;> rfl

theorem setPath_with_qint (q : BitVec 32) : ({ s.setPath p v with qint := q } : State) = State.setPath { s with qint := q } p v := by
  cases p <;> rfl

@[simp] theorem emit_setPath (e : Event) : emit e (s.setPath p v) = (emit e s).setPath p v := by cases p <;> rfl
@[simp] theorem endFeed_setPath : endFeed (s.setPath p v) = (endFeed s).setPath p v := by cases p <;> rfl
@[simp] theorem raise_setPath (f : Fault) : raise f (s.setPath p v) = (raise f s).setPath p v := by cases p <;> rfl
@[simp] theorem refuse_setPath (r : Refusal) : refuse r (s.setPath p v) = (refuse r s).setPath p v := by cases p <;> rfl
@[simp] theorem setEnv_setPath (r : EnvReg) (x : Word64) : setEnv r x (s.setPath p v) = (setEnv r x s).setPath p v := by
  cases p <;> rfl
@[simp] theorem setCtxReg_setPath (r : CtxReg) (c : CtxId) (x : Word64) :
    setCtxReg r c x (s.setPath p v) = (setCtxReg r c x s).setPath p v := by
  cases p <;> cases c <;> rfl

@[simp] theorem flush_setPath : flush (s.setPath p v) = (flush s).setPath p v := by
  unfold flush
  rw [setPath_pending]
  split
  · cases p <;> rfl
  · rfl

/-! ## Register writes -/

@[simp] theorem caWriteEnv_setPath (r : EnvReg) (x : Word64) : caWriteEnv r x (s.setPath p v) = (caWriteEnv r x s).setPath p v := by
  simp only [caWriteEnv, setPath_env, flush_setPath, setEnv_setPath, apply_ite (State.setPath · p v)]

@[simp] theorem caWriteCtx_setPath (r : CtxReg) (c : CtxId) (x : Word64) :
    caWriteCtx r c x (s.setPath p v) = (caWriteCtx r c x s).setPath p v := by
  simp only [caWriteCtx, setPath_ctx, setPath_actx, flush_setPath, setCtxReg_setPath, apply_ite (State.setPath · p v)]

@[simp] theorem tex2Write_setPath (c : CtxId) (x : Word64) : tex2Write c x (s.setPath p v) = (tex2Write c x s).setPath p v := by
  simp [tex2Write]

@[simp] theorem prmodeWrite_setPath (x : Word64) : prmodeWrite x (s.setPath p v) = (prmodeWrite x s).setPath p v := by
  simp only [prmodeWrite, setPath_env, setPath_ac, flush_setPath, setEnv_setPath, apply_ite (State.setPath · p v)]

@[simp] theorem applyPrim_setPath (x : BitVec 11) : applyPrim x (s.setPath p v) = (applyPrim x s).setPath p v := by
  unfold applyPrim
  rw [primFlushes_setPath]
  split <;> simp only [flush_setPath, setEnv_setPath, setPath_vq] <;> exact setPath_with_vq ..

@[simp] theorem rgbaqWrite_setPath (x : Word64) : rgbaqWrite x (s.setPath p v) = (rgbaqWrite x s).setPath p v := by cases p <;> rfl
@[simp] theorem stWrite_setPath (x : Word64) : stWrite x (s.setPath p v) = (stWrite x s).setPath p v := by cases p <;> rfl
@[simp] theorem uvSet_setPath (x y : BitVec 14) : uvSet x y (s.setPath p v) = (uvSet x y s).setPath p v := by cases p <;> rfl
@[simp] theorem fogSet_setPath (f : BitVec 8) : fogSet f (s.setPath p v) = (fogSet f s).setPath p v := by cases p <;> rfl

/-! ## The kick -/

@[simp] theorem pushVertex_setPath (x y : BitVec 16) (z : BitVec 32) :
    pushVertex x y z (s.setPath p v) = (pushVertex x y z s).setPath p v := by
  cases p <;> rfl

@[simp] theorem resolvePrimitive_setPath (skip : Bool) :
    resolvePrimitive skip (s.setPath p v) = (resolvePrimitive skip s).setPath p v := by
  simp only [resolvePrimitive, setPath_vq, setPath_topology, setPath_cfg, reject_setPath, hazard_setPath]
  split
  · cases p <;> rfl
  · split
    · exact raise_setPath ..
    · split
      · rw [← flush_setPath]; cases p <;> rfl
      · cases p <;> rfl

@[simp] theorem kick_setPath (x y : BitVec 16) (z : BitVec 32) (skip : Bool) :
    kick x y z skip (s.setPath p v) = (kick x y z skip s).setPath p v := by
  simp only [kick, setPath_vq, setPath_cfg, setPath_topology, pushVertex_setPath, raise_setPath, resolvePrimitive_setPath,
    apply_ite (State.setPath · p v)]

@[simp] theorem xyzfWrite_setPath (x y : BitVec 16) (z : BitVec 24) (f : BitVec 8) (skip : Bool) :
    xyzfWrite x y z f skip (s.setPath p v) = (xyzfWrite x y z f skip s).setPath p v := by
  simp only [xyzfWrite, setPath_cfg, fogSet_setPath, kick_setPath, apply_ite (State.setPath · p v)]

@[simp] theorem xyzWrite_setPath (x y : BitVec 16) (z : BitVec 32) (skip : Bool) :
    xyzWrite x y z skip (s.setPath p v) = (xyzWrite x y z skip s).setPath p v := by
  simp only [xyzWrite, setPath_cfg, kick_setPath, apply_ite (State.setPath · p v)]

@[simp] theorem xyzfValue_setPath (x : Word64) (skip : Bool) : xyzfValue x skip (s.setPath p v) = (xyzfValue x skip s).setPath p v := by
  simp [xyzfValue]

@[simp] theorem xyzValue_setPath (x : Word64) (skip : Bool) : xyzValue x skip (s.setPath p v) = (xyzValue x skip s).setPath p v := by
  simp [xyzValue]

/-! ## The transfer engine -/

@[simp] theorem commitPixel_setPath (x : BitVec 32) : commitPixel x (s.setPath p v) = (commitPixel x s).setPath p v := by
  unfold commitPixel
  rw [setPath_xfer]
  split
  · rfl
  · rw [flush_setPath]; cases p <;> rfl

theorem commitLoop_setPath (k : Nat) (b : Bool) :
    commitLoop k (s.setPath p v, b) = ((commitLoop k (s, b)).1.setPath p v, (commitLoop k (s, b)).2) := by
  induction k generalizing s b with
  | zero => rfl
  | succ k ih =>
    simp only [commitLoop, setPath_xfer, commitPixel_setPath, setPath_with_xfer]
    split
    · exact ih _ true
    · rfl

@[simp] theorem dropByte_setPath : dropByte (s.setPath p v) = (dropByte s).setPath p v := by
  unfold dropByte
  rw [setPath_xfer]
  split
  · rfl
  · rw [setPath_with_xfer, emit_setPath]

theorem xferByte_setPath (wrote : Bool) (b : Byte) :
    xferByte (s.setPath p v, wrote) b = ((xferByte (s, wrote) b).1.setPath p v, (xferByte (s, wrote) b).2) := by
  simp only [xferByte, setPath_xfer, setPath_with_xfer, commitLoop_setPath, dropByte_setPath]
  split <;> rfl

theorem xferBytes_setPath (bs : List Byte) (wrote : Bool) :
    bs.foldl xferByte (s.setPath p v, wrote) =
      ((bs.foldl xferByte (s, wrote)).1.setPath p v, (bs.foldl xferByte (s, wrote)).2) := by
  induction bs generalizing s wrote with
  | nil => rfl
  | cons b bs ih => rw [List.foldl_cons, List.foldl_cons, xferByte_setPath, ih]

@[simp] theorem xferData_setPath (bs : List Byte) : xferData bs (s.setPath p v) = (xferData bs s).setPath p v := by
  simp only [xferData, xferBytes_setPath, setPath_xfer, emit_setPath, apply_ite (State.setPath · p v)]

@[simp] theorem hwregWrite_setPath (x : Word64) : hwregWrite x (s.setPath p v) = (hwregWrite x s).setPath p v := by simp [hwregWrite]

@[simp] theorem move_setPath : move (s.setPath p v) = (move s).setPath p v := by
  unfold move
  rw [flush_setPath]
  cases p <;> rfl

@[simp] theorem transferStart_setPath (x : BitVec 2) : transferStart x (s.setPath p v) = (transferStart x s).setPath p v := by
  simp only [transferStart, setPath_xfer, setPath_env, setPath_cfg]
  split
  case h_3 => rw [← move_setPath]; cases p <;> rfl
  all_goals cases p <;> rfl

@[simp] theorem trxdirWrite_setPath (x : Word64) : trxdirWrite x (s.setPath p v) = (trxdirWrite x s).setPath p v := by
  simp [trxdirWrite]

/-! ## Instructions -/

/-- Replacing the parser state of path p by v before leads to the same next state with it replaced. -/
def AnswersApart (p : PathId) (v : PathState) (o o' : Host.Outcome State Fault Refusal) : Prop :=
  ∃ t, o = .next t ∧ o' = .next (t.setPath p v)

theorem writeReg_apart (a : BitVec 7) (x : Word64) : AnswersApart p v (writeReg a x s) (writeReg a x (s.setPath p v)) := by
  unfold writeReg
  split
  all_goals exact ⟨_, rfl, congrArg Host.Outcome.next (by simp)⟩

theorem setPath_comm {q : PathId} (h : p ≠ q) (w : PathState) :
    (s.setPath p v).setPath q w = (s.setPath q w).setPath p v := by
  cases p <;> cases q <;> first | rfl | exact absurd rfl h

theorem tagStart_setPath (h : p ≠ s.feed.path) (flg : BitVec 2) (t : TagFields) :
    tagStart flg t (s.setPath p v) = (tagStart flg t s).setPath p v := by
  simp only [tagStart]
  rw [setPath_feed, setPath_comm s p v h]
  simp only [setPath_with_qint, applyPrim_setPath, apply_ite (State.setPath · p v)]

theorem imageQword_setPath (h : p ≠ s.feed.path) (q : Qword) : imageQword q (s.setPath p v) = (imageQword q s).setPath p v := by
  have hf : (xferData (bytesOf 16 q) s).feed.path = s.feed.path := by rw [(xferData_reach _ s).feed]
  simp only [imageQword, xferData_setPath, setPath_feed]
  rw [path_setPath_ne _ (by rw [hf]; exact h.symm), setPath_comm _ p v (by rw [hf]; exact h)]

theorem tagStart_apart (h : p ≠ s.feed.path) (flg : BitVec 2) (t : TagFields) :
    AnswersApart p v (.next (tagStart flg t s)) (.next (tagStart flg t (s.setPath p v))) :=
  ⟨_, rfl, congrArg _ (tagStart_setPath s p v h flg t)⟩

theorem imageQword_apart (h : p ≠ s.feed.path) (q : Qword) :
    AnswersApart p v (.next (imageQword q s)) (.next (imageQword q (s.setPath p v))) :=
  ⟨_, rfl, congrArg _ (imageQword_setPath s p v h q)⟩

/-- The tags and the data qwords have their own path's parser state to write; every other instruction touches no path at all. -/
theorem exec_apart (h : p ≠ s.feed.path) (i : Instr) : AnswersApart p v (exec i s) (exec i (s.setPath p v)) := by
  cases i
  case giftagPacked t => exact tagStart_apart s p v h 0#2 t
  case giftagReglist t => exact tagStart_apart s p v h 1#2 t
  case giftagImage u =>
    cases u with
    | tag t => exact tagStart_apart s p v h 2#2 t
    | data q => exact imageQword_apart s p v h q
  case giftagImage2 u =>
    cases u with
    | tag t => exact tagStart_apart s p v h 3#2 t
    | data q => exact imageQword_apart s p v h q
  case packedRgba r g b a => exact ⟨_, rfl, by cases p <;> rfl⟩
  case packedStq a b q => exact ⟨_, rfl, by cases p <;> rfl⟩
  case packedAd a x => exact writeReg_apart s p v a x
  case packedReservedB =>
    change AnswersApart p v (execPackedReservedB s) (execPackedReservedB (s.setPath p v))
    unfold execPackedReservedB
    rw [setPath_cfg]
    split
    · exact ⟨_, rfl, rfl⟩
    · exact ⟨_, rfl, congrArg _ (refuse_setPath ..)⟩
  all_goals exact ⟨_, rfl, congrArg Host.Outcome.next (by simp)⟩

/-! ## The way to the next unit -/

section
variable {s p}
variable (h : p ≠ s.feed.path)
include h

theorem cur_setPath : (s.setPath p v).cur = s.cur := by
  rw [State.cur, setPath_feed, path_setPath_ne s h.symm, State.cur]

theorem stepSlot_setPath : stepSlot (s.setPath p v) = (stepSlot s).setPath p v := by
  rw [stepSlot, cur_setPath v h, setPath_feed, setPath_comm s p v h, stepSlot]

theorem nextQword_setPath : nextQword (s.setPath p v) = (nextQword s).setPath p v := by
  have hc : consume (s.setPath p v) = (consume s).setPath p v := by cases p <;> rfl
  have hp : p ≠ (consume s).feed.path := h
  simp only [nextQword, hc, eopCheck, cur_setPath v hp, setPath_feed, setPath_cfg, endFeed_setPath, apply_ite (State.setPath · p v)]

theorem advance_setPath (c : UnitCtx) : advance c (s.setPath p v) = (advance c s).setPath p v := by
  have hp : p ≠ (stepSlot s).feed.path := by rwa [stepSlot, setPath_feed]
  have hhalf : ∀ f, ({ (stepSlot s).setPath p v with feed := f } : State) = State.setPath { stepSlot s with feed := f } p v := by
    intro f; cases p <;> rfl
  cases c with
  | packed d => simp only [advance, stepSlot_setPath v h, nextQword_setPath v hp]
  | reglist d =>
    simp only [advance, stepSlot_setPath v h, cur_setPath v hp, setPath_feed, nextQword_setPath v hp, hhalf,
      apply_ite (State.setPath · p v)]
  | tag => exact nextQword_setPath v h
  | image => exact nextQword_setPath v h
  | image2 => exact nextQword_setPath v h

theorem finishUnit_setPath (c : UnitCtx) : finishUnit c (s.setPath p v) = (finishUnit c s).setPath p v := by
  simp only [finishUnit, setPath_fault, setPath_refused, advance_setPath v h, endFeed_setPath, apply_ite (State.setPath · p v)]

theorem unitCtx_setPath : unitCtx (s.setPath p v) = unitCtx s := by simp only [unitCtx, cur_setPath v h]

theorem fetchUnit_setPath (q : Qword) : fetchUnit (s.setPath p v) q = fetchUnit s q := by
  simp only [fetchUnit, unitCtx_setPath v h, setPath_feed]

end

theorem Reach.feed_path {s t : State} (h : Reach s t) : t.feed.path = s.feed.path := by
  induction h with
  | refl => rfl
  | flush _ ih => rwa [flush_feed]
  | ctx r c _ _ ih => rwa [setCtxReg_feed]
  | path v _ ih => rwa [setPath_feed]
  | engine hrun _ ih => rwa [hrun.reach.feed]
  | _ => assumption

theorem step_of_unit {s : State} {q : Qword} {rest : List Qword} (h : AtUnit s q rest) : step s = unitStep s q := by
  simp [step, h.running, h.next]

theorem AtUnit.setPath {s : State} {q : Qword} {rest : List Qword} (h : AtUnit s q rest) (p : PathId) (v : PathState) :
    AtUnit (s.setPath p v) q rest :=
  ⟨by rw [setPath_stuck]; exact h.running, by rw [setPath_feed]; exact h.next⟩

theorem step_setPath {s t : State} {q : Qword} {rest : List Qword} (h : AtUnit s q rest) (ht : step s = .next t) {p : PathId}
    (hp : p ≠ s.feed.path) (v : PathState) : step (s.setPath p v) = .next (t.setPath p v) := by
  obtain ⟨u, hu, hu'⟩ := exec_apart s p v hp (decode (fetchUnit s q))
  obtain ⟨u', hr, he⟩ := exec_effect (decode (fetchUnit s q)) s
  obtain rfl : u' = u := Host.Outcome.next.inj (hr.symm.trans hu)
  have hf : p ≠ u'.feed.path := by rwa [he.reach.feed_path]
  rw [step_of_unit h, unitStep, hu] at ht
  obtain rfl := Host.Outcome.next.inj ht
  rw [step_of_unit (h.setPath p v), unitStep, fetchUnit_setPath v hp, hu', unitCtx_setPath v hp]
  exact congrArg _ (finishUnit_setPath v hf _)

theorem setPath_self : s.setPath p (s.path p) = s := by cases p <;> rfl

/-- Settles O11: the step commutes with replacing another path's parser state; replacing it by itself shows that the step leaves it. -/
theorem pathsAreIsolated : Obligations.PathsAreIsolated := by
  intro s t q rest h ht p hp
  refine ⟨?_, step_setPath h ht hp⟩
  have hself := step_setPath h ht hp (s.path p)
  rw [setPath_self, ht] at hself
  rw [Host.Outcome.next.inj hself, path_setPath_same]

end Sys2Proof.Machine
end


section
/-! PROOFS. The encoding (30_encoding): the decoder undoes the encoder, and what it reads of a slot is what R121 names. -/

namespace Sys2Proof

open Laws

/-- Settles O1, row by row: the tags and the PACKED rows each have their own layout, a REGLIST value stands alone in the low half of
its qword, and an A+D slot gives back its address and data, of which an assigned address names one row. -/
theorem decodeEncodeInverse : Obligations.DecodeEncodeInverse := by
  intro i h
  cases i with
  | giftagPacked t => exact RoundTrip.giftagPacked t h
  | giftagReglist t => exact RoundTrip.giftagReglist t h
  | giftagImage u => exact RoundTrip.giftagImage u h
  | giftagImage2 u => exact RoundTrip.giftagImage2 u h
  | packedPrim v => exact RoundTrip.packedPrim v h
  | packedRgba r g b a => exact RoundTrip.packedRgba r g b a h
  | packedStq s t q => exact RoundTrip.packedStq s t q h
  | packedUv u v => exact RoundTrip.packedUv u v h
  | packedXyzf2 x y z f adc => exact RoundTrip.packedXyzf2 x y z f adc h
  | packedXyz2 x y z adc => exact RoundTrip.packedXyz2 x y z adc h
  | packedTex0_1 data => exact RoundTrip.packedTex0_1 data h
  | packedTex0_2 data => exact RoundTrip.packedTex0_2 data h
  | packedClamp_1 data => exact RoundTrip.packedClamp_1 data h
  | packedClamp_2 data => exact RoundTrip.packedClamp_2 data h
  | packedFog f => exact RoundTrip.packedFog f h
  | packedReservedB => exact RoundTrip.packedReservedB h
  | packedXyzf3 x y z f => exact RoundTrip.packedXyzf3 x y z f h
  | packedXyz3 x y z => exact RoundTrip.packedXyz3 x y z h
  | packedAd addr data => exact RoundTrip.packedAd addr data h
  | packedNop => exact RoundTrip.packedNop h
  | reglistPrim v | reglistRgbaq v | reglistSt v | reglistUv v | reglistXyzf2 v | reglistXyz2 v | reglistTex0_1 v
  | reglistTex0_2 v | reglistClamp_1 v | reglistClamp_2 v | reglistFog v | reglistUnassigned0B v | reglistXyzf3 v
  | reglistXyz3 v | reglistAd v | reglistNop v =>
    exact decode_reglistUnit _ v
  | adPrim v | adRgbaq v | adSt v | adUv v | adXyzf2 v | adXyz2 v | adTex0_1 v | adTex0_2 v | adClamp_1 v | adClamp_2 v
  | adFog v | adXyzf3 v | adXyz3 v | adTex1_1 v | adTex1_2 v | adTex2_1 v | adTex2_2 v | adXyoffset_1 v | adXyoffset_2 v
  | adPrmodecont v | adPrmode v | adTexclut v | adScanmsk v | adMiptbp1_1 v | adMiptbp1_2 v | adMiptbp2_1 v | adMiptbp2_2 v
  | adTexa v | adFogcol v | adTexflush v | adScissor_1 v | adScissor_2 v | adAlpha_1 v | adAlpha_2 v | adDimx v | adDthe v
  | adColclamp v | adTest_1 v | adTest_2 v | adPabe v | adFba_1 v | adFba_2 v | adFrame_1 v | adFrame_2 v | adZbuf_1 v
  | adZbuf_2 v | adBitbltbuf v | adTrxpos v | adTrxreg v | adTrxdir v | adHwreg v | adSignal v | adFinish v | adLabel v =>
    exact decode_adUnit _ v

/-- Settles O3: each word is read by computation. -/
theorem sampleWordsDecode : Obligations.SampleWordsDecode := ⟨rfl, rfl, rfl, rfl, rfl, rfl⟩

/-- R121: a slot under descriptor 0xE reads as the A+D slot that has its address and its data, whatever its bits above the address. -/
theorem decode_adSlot_eq_decode_adUnit (q : Qword) : decode ⟨.packed 0xE, q⟩ = decode (adUnit (bits q 64 7) (bits q 0 64)) :=
  (decode_adUnit _ _).symm

/-- Settles O4: each equation but that of A+D is the decoder's arm for the descriptor. -/
theorem packedSlotFields : Obligations.PackedSlotFields := fun q =>
  ⟨rfl, rfl, rfl, rfl, rfl, rfl, rfl, rfl, rfl, rfl, rfl, rfl, rfl, rfl, decode_adSlot_eq_decode_adUnit q, rfl⟩

end Sys2Proof
end

section
/-! PROOFS. The decoder (40_gif_decoder): which unit is next, what a tag and a slot do to the parser state, and where a feed call ends. -/

namespace Sys2Proof.Machine

/-! ## Which unit is next (40_gif_decoder R170) -/

theorem unitCtx_boundary {s : State} (h : s.cur.nloop = 0#15) : unitCtx s = .tag := by simp [unitCtx, h]

/-- Inside a tag the stored FLG selects the unit (30_encoding R112). -/
theorem unitCtx_packed {s : State} (h : s.cur.nloop ≠ 0#15) (hf : bits s.cur.tag 58 2 = 0#2) : unitCtx s = .packed s.cur.getReg := by
  rw [unitCtx, if_neg h, show s.cur.flg = 0#2 from hf]; rfl

theorem unitCtx_reglist {s : State} (h : s.cur.nloop ≠ 0#15) (hf : bits s.cur.tag 58 2 = 1#2) : unitCtx s = .reglist s.cur.getReg := by
  rw [unitCtx, if_neg h, show s.cur.flg = 1#2 from hf]; rfl

theorem unitCtx_image {s : State} (h : s.cur.nloop ≠ 0#15) (hf : bits s.cur.tag 58 2 = 2#2) : unitCtx s = .image := by
  rw [unitCtx, if_neg h, show s.cur.flg = 2#2 from hf]; rfl

theorem unitCtx_image2 {s : State} (h : s.cur.nloop ≠ 0#15) (hf : bits s.cur.tag 58 2 = 3#2) : unitCtx s = .image2 := by
  rw [unitCtx, if_neg h, show s.cur.flg = 3#2 from hf]; rfl

theorem fetchUnit_eq {s : State} {c : UnitCtx} (h : unitCtx s = c) (hr : ∀ d, c ≠ .reglist d) (q : Qword) : fetchUnit s q = ⟨c, q⟩ := by
  rw [fetchUnit, h]
  cases c with
  | reglist d => exact absurd rfl (hr d)
  | _ => rfl

theorem fetchUnit_reglist {s : State} {d : BitVec 4} (h : unitCtx s = .reglist d) (q : Qword) :
    fetchUnit s q = reglistUnit d (bits q (if s.feed.half then 64 else 0) 64) := by
  rw [fetchUnit, h]

/-- Settles O6: the parser state of the path names the unit, and `half` the half of a REGLIST qword. -/
theorem tagStateSelectsUnit : Obligations.TagStateSelectsUnit := by
  refine fun s q => ⟨fun h => fetchUnit_eq (unitCtx_boundary h) nofun q, fun h => ⟨fun hf => ?_, fun hf hh => ?_, fun hf hh => ?_,
    fun hf => ?_, fun hf => ?_⟩⟩
  · exact fetchUnit_eq (unitCtx_packed h hf) nofun q
  · rw [fetchUnit_reglist (unitCtx_reglist h hf), hh]; rfl
  · rw [fetchUnit_reglist (unitCtx_reglist h hf), hh]; rfl
  · exact fetchUnit_eq (unitCtx_image h hf) nofun q
  · exact fetchUnit_eq (unitCtx_image2 h hf) nofun q

/-- Settles O5: `step` of a running block inside a feed call is `unitStep`. -/
theorem stepRunsDecodedUnit : Obligations.StepRunsDecodedUnit := by
  intro s t q rest h he
  rw [step_of_unit h, unitStep, he]

/-! ## Tags (40_gif_decoder R171, R172) -/

theorem ofBool_bit {n : Nat} (q : BitVec n) (i : Nat) : BitVec.ofBool (bit q i) = bits q i 1 := by
  refine BitVec.eq_of_getLsbD_eq fun j hj => ?_
  simp [bit, bits, show j = 0 by omega]

/-- A tag's fields and FLG are all its bits (30_encoding R110, R151). -/
theorem encodeTag_tagFields (q : Qword) : encodeTag (tagFlg q) (tagFields q) = q := by
  change bits q 64 64 ++ bits q 60 4 ++ bits q 58 2 ++ bits q 47 11 ++ BitVec.ofBool (bit q 46) ++ bits q 16 30 ++
    BitVec.ofBool (bit q 15) ++ bits q 0 15 = q
  rw [ofBool_bit, ofBool_bit]
  simp (disch := decide) only [bits, BitVec.extractLsb'_append_extractLsb'_eq_extractLsb']
  exact bits_all q rfl

theorem exec_decodeTag (q : Qword) (s : State) : exec (decodeTag q) s = .next (tagStart (tagFlg q) (tagFields q) s) := by
  have hflg : ∀ f : BitVec 2, f ≠ 0#2 → f ≠ 1#2 → f ≠ 2#2 → f = 3#2 := by decide
  unfold decodeTag
  split
  · next h => rw [h]; rfl
  · next h => rw [h]; rfl
  · next h => rw [h]; rfl
  · next h0 h1 h2 => rw [hflg _ h0 h1 h2]; rfl

/-- R172: a tag with NLOOP = 0 is stored in its path, and that is all. -/
theorem tagStart_empty {t : TagFields} (h : t.nloop = 0#15) (flg : BitVec 2) (s : State) :
    tagStart flg t s = s.setPath s.feed.path ⟨encodeTag flg t, t.nloop, 0#4⟩ := if_pos h

/-- R171: a tag whose PRE does not count loads its path, and with NLOOP > 0 sets the internal Q. -/
theorem tagStart_plain {flg : BitVec 2} {t : TagFields} (h : t.pre = false ∨ t.nloop = 0#15 ∨ flg ≠ 0#2) (s : State) :
    tagStart flg t s = if t.nloop = 0#15 then s.setPath s.feed.path ⟨encodeTag flg t, t.nloop, 0#4⟩
      else { s.setPath s.feed.path ⟨encodeTag flg t, t.nloop, 0#4⟩ with qint := qintOne } := by
  by_cases hn : t.nloop = 0#15
  · rw [tagStart_empty hn, if_pos hn]
  · have hp : (t.pre && decide (flg = 0#2)) = false := by
      rcases h with h | h | h
      · rw [h, Bool.false_and]
      · exact absurd h hn
      · rw [decide_eq_false h, Bool.and_false]
    simp only [tagStart, if_neg hn, hp, Bool.false_eq_true, if_false]

/-- R171: a PACKED tag with data and PRE = 1 applies its PRIM field to the started path. -/
theorem tagStart_pre {t : TagFields} (hp : t.pre = true) (hn : t.nloop ≠ 0#15) (s : State) :
    tagStart 0#2 t s = applyPrim t.prim { s.setPath s.feed.path ⟨encodeTag 0#2 t, t.nloop, 0#4⟩ with qint := qintOne } := by
  simp only [tagStart, if_neg hn, hp, decide_true, Bool.and_true, if_true]

/-- Settles O13: format by format, the arm of `exec` is `tagStart` with the format's FLG. -/
theorem tagStartLoadsPath : Obligations.TagStartLoadsPath := by
  intro t s
  refine ⟨fun h => ?_, fun hp hn => ?_, ?_, ?_, ?_⟩
  · exact congrArg _ (tagStart_plain (h.imp_right .inl) s)
  · change Host.Outcome.next (tagStart 0#2 t s) = _
    rw [tagStart_pre hp hn]
    exact congrArg (fun u => Host.Outcome.next (applyPrim t.prim u)) (if_neg hn).symm
  · exact congrArg _ (tagStart_plain (.inr (.inr (by decide))) s)
  · exact congrArg _ (tagStart_plain (.inr (.inr (by decide))) s)
  · exact congrArg _ (tagStart_plain (.inr (.inr (by decide))) s)

/-! ## The way to the next unit (40_gif_decoder R173 to R176) -/

/-- What is left of a feed call whose first qword is through and whose path has come to v: `rest`, or nothing if v's tag is complete and
its EOP ends the call (R173). -/
def leftOfCall (s : State) (v : PathState) (rest : List Qword) : List Qword :=
  if v.nloop = 0#15 ∧ bit v.tag 15 = true ∧ s.feed.path.inMask s.cfg.eopTerminates = true then [] else rest

theorem nextQword_eq (s : State) :
    nextQword s = { s with feed := ⟨s.feed.path, leftOfCall s s.cur s.feed.qwords.tail, false⟩ } := by
  have hc : (consume s).cur = s.cur := rfl
  unfold nextQword eopCheck leftOfCall
  rw [hc]
  by_cases h : s.cur.nloop = 0#15 ∧ bit s.cur.tag 15 = true ∧ s.feed.path.inMask s.cfg.eopTerminates = true
  · rw [if_pos h, if_pos (by simpa [PathState.eop, consume, and_assoc] using h)]; rfl
  · rw [if_neg h, if_neg (by simpa [PathState.eop, consume, and_assoc] using h)]; rfl

theorem nextQword_feed (s : State) : (nextQword s).feed = ⟨s.feed.path, leftOfCall s s.cur s.feed.qwords.tail, false⟩ := by
  rw [nextQword_eq]

@[simp] theorem nextQword_cur (s : State) : (nextQword s).cur = s.cur := by rw [nextQword_eq]; rfl

/-- `StepReg` is the stepped cursor of R174. -/
theorem stepReg_eq_steppedPath (p : PathState) : p.stepReg = steppedPath p := by
  have hn : p.nreg = if (bits p.tag 60 4).toNat = 0 then 16 else (bits p.tag 60 4).toNat := by
    simp only [PathState.nreg, BitVec.toNat_eq, BitVec.toNat_ofNat, Nat.zero_mod]
  rw [PathState.stepReg, steppedPath, hn]
  rfl

theorem steppedPath_tag (p : PathState) : (steppedPath p).tag = p.tag := by
  simp only [steppedPath, apply_ite PathState.tag, ite_self]

@[simp] theorem stepSlot_feed (s : State) : (stepSlot s).feed = s.feed := setPath_feed ..
@[simp] theorem stepSlot_cfg (s : State) : (stepSlot s).cfg = s.cfg := setPath_cfg ..

@[simp] theorem stepSlot_cur (s : State) : (stepSlot s).cur = steppedPath s.cur := by
  rw [State.cur, stepSlot_feed, stepSlot, path_setPath_same, stepReg_eq_steppedPath]

theorem advance_packed (d : BitVec 4) (s : State) : advance (.packed d) s = nextQword (stepSlot s) := rfl

theorem advance_reglist (d : BitVec 4) (s : State) : advance (.reglist d) s =
    if s.feed.half = true ∨ (steppedPath s.cur).nloop = 0#15 then nextQword (stepSlot s)
    else { stepSlot s with feed := { (stepSlot s).feed with half := true } } := by
  simp only [advance, stepSlot_feed, stepSlot_cur, Bool.or_eq_true, decide_eq_true_eq]

/-- What `advance` can do: the qword is through, or the high half of a REGLIST qword of an unfinished tag is next. -/
theorem advance_cases (c : UnitCtx) (s : State) :
    (∃ t, t.feed = s.feed ∧ t.cfg = s.cfg ∧ advance c s = nextQword t) ∨
      (advance c s = { stepSlot s with feed := { (stepSlot s).feed with half := true } } ∧ (steppedPath s.cur).nloop ≠ 0#15) := by
  have hslot : (stepSlot s).feed = s.feed ∧ (stepSlot s).cfg = s.cfg := ⟨stepSlot_feed s, stepSlot_cfg s⟩
  cases c with
  | packed d => exact .inl ⟨stepSlot s, hslot.1, hslot.2, rfl⟩
  | reglist d =>
    rw [advance_reglist]
    split
    · exact .inl ⟨stepSlot s, hslot.1, hslot.2, rfl⟩
    · next hd => exact .inr ⟨rfl, fun h => hd (.inr h)⟩
  | tag | image | image2 => exact .inl ⟨s, rfl, rfl, rfl⟩

theorem advance_feed_path (c : UnitCtx) (s : State) : (advance c s).feed.path = s.feed.path := by
  obtain ⟨t, hf, -, h⟩ | ⟨h, -⟩ := advance_cases c s
  · rw [h, nextQword_feed, hf]
  · rw [h, stepSlot_feed]

/-- At a tag boundary a qword is through, whatever the unit was. -/
theorem advance_boundary (c : UnitCtx) {s : State} (hn : (advance c s).cur.nloop = 0#15) :
    (advance c s).feed = ⟨s.feed.path, leftOfCall s (advance c s).cur s.feed.qwords.tail, false⟩ := by
  obtain ⟨t, hf, hc, h⟩ | ⟨h, hs⟩ := advance_cases c s
  · rw [h, nextQword_feed, nextQword_cur, leftOfCall, leftOfCall, hf, hc]
  · rw [h] at hn
    exact absurd (stepSlot_cur s ▸ hn) hs

theorem State.running_iff (s : State) : s.stuck = false ↔ s.fault = none ∧ s.refused = none := by simp [State.stuck]

theorem finishUnit_running {s : State} (h : s.stuck = false) (c : UnitCtx) : finishUnit c s = advance c s := by
  obtain ⟨hf, hr⟩ := s.running_iff.1 h
  simp [finishUnit, hf, hr]

theorem finishUnit_stuck (c : UnitCtx) (s : State) : (finishUnit c s).stuck = s.stuck := (finishUnit_parser c s).block.stuck

/-! ## What an instruction leaves of the parser -/

theorem Reach.cfg {s t : State} (h : Reach s t) : t.cfg = s.cfg := by
  induction h with
  | refl => rfl
  | flush _ ih => rwa [flush_cfg]
  | ctx r c _ _ ih => rwa [setCtxReg_cfg]
  | path v _ ih => rwa [setPath_cfg]
  | engine hrun _ ih => rwa [hrun.reach.cfg]
  | _ => assumption

/-- Only a stop ends the feed call. -/
theorem Reach.feed {s t : State} (h : Reach s t) (ht : t.stuck = false) : t.feed = s.feed := by
  rw [State.running_iff] at ht
  induction h with
  | refl => rfl
  | flush _ ih => rw [flush_feed]; exact ih (by simpa using ht)
  | ctx r c _ _ ih => rw [setCtxReg_feed]; exact ih (by simpa using ht)
  | path v _ ih => rw [setPath_feed]; exact ih (by simpa using ht)
  | engine hrun _ ih => rw [hrun.reach.feed]; exact ih (by rwa [hrun.reach.fault, hrun.reach.refused] at ht)
  | raise f _ _ => simp at ht
  | refuse r _ _ => simp at ht
  | env _ _ _ ih | accumulator _ _ _ ih | queue _ _ ih | window _ _ _ _ ih => exact ih ht

/-- An instruction that is not stopped leaves the feed call where it was. -/
theorem exec_feed_cfg {i : Instr} {s t : State} (h : exec i s = .next t) (ht : t.stuck = false) : t.feed = s.feed ∧ t.cfg = s.cfg := by
  obtain ⟨u, hu, he⟩ := exec_effect i s
  obtain rfl : u = t := Host.Outcome.next.inj (hu.symm.trans h)
  exact ⟨he.reach.feed ht, he.reach.cfg⟩

/-- The rows of PACKED slots, REGLIST values and register addresses: all but the tags and the IMAGE qwords. -/
def isSlot : Instr → Bool
  | .giftagPacked _ | .giftagReglist _ | .giftagImage _ | .giftagImage2 _ => false
  | _ => true

theorem decodeAdSlot_isSlot (addr : BitVec 7) (v : Word64) : isSlot (decodeAdSlot addr v) = true := by
  unfold decodeAdSlot decodeAd
  split <;> rfl

theorem decodePacked_isSlot (d : BitVec 4) (q : Qword) : isSlot (decode ⟨.packed d, q⟩) = true := by
  change isSlot (decodePacked d q) = true
  unfold decodePacked
  split
  case h_15 => exact decodeAdSlot_isSlot _ _
  all_goals rfl

theorem decodeReglist_isSlot (d : BitVec 4) (v : Word64) : isSlot (decode (reglistUnit d v)) = true := by
  rw [decode_reglistUnit]
  unfold decodeReglist
  split <;> rfl

theorem exec_reservedB_nop {s : State} (h : s.cfg.reservedDesc = .nop) : exec .packedReservedB s = .next s := by
  change execPackedReservedB s = _
  rw [execPackedReservedB, h]

theorem exec_reservedB_refuse {s : State} (h : s.cfg.reservedDesc = .refuse) :
    exec .packedReservedB s = .next (refuse .reservedDescriptor s) := by
  change execPackedReservedB s = _
  rw [execPackedReservedB, h]

/-- A slot's instruction does not look at any path, its own among them. -/
theorem exec_slot_apart {i : Instr} (hi : isSlot i = true) (s : State) (p : PathId) (v : PathState) :
    AnswersApart p v (exec i s) (exec i (s.setPath p v)) := by
  cases i
  case giftagPacked | giftagReglist | giftagImage | giftagImage2 => exact absurd hi Bool.false_ne_true
  case packedRgba | packedStq => exact ⟨_, rfl, by cases p <;> rfl⟩
  case packedAd a x => exact writeReg_apart s p v a x
  case packedReservedB =>
    have hcfg : (s.setPath p v).cfg.reservedDesc = s.cfg.reservedDesc := by rw [setPath_cfg]
    cases hp : s.cfg.reservedDesc with
    | nop => exact ⟨_, exec_reservedB_nop hp, exec_reservedB_nop (hcfg.trans hp)⟩
    | refuse => exact ⟨_, exec_reservedB_refuse hp, by rw [exec_reservedB_refuse (hcfg.trans hp), refuse_setPath]⟩
  all_goals exact ⟨_, rfl, congrArg Host.Outcome.next (by simp)⟩

theorem exec_slot_path {i : Instr} (hi : isSlot i = true) {s t : State} (h : exec i s = .next t) (p : PathId) : t.path p = s.path p := by
  obtain ⟨u, hu, hself⟩ := exec_slot_apart hi s p (s.path p)
  obtain rfl : u = t := Host.Outcome.next.inj (hu.symm.trans h)
  rw [setPath_self, hu] at hself
  rw [Host.Outcome.next.inj hself, path_setPath_same]

/-! ## Slots (40_gif_decoder R174 to R176) -/

/-- What a slot's instruction leaves of the parser when it does not stop the block: all of it. -/
theorem exec_slot_cur {i : Instr} (hi : isSlot i = true) {s t : State} (h : exec i s = .next t) (ht : t.stuck = false) :
    t.cur = s.cur := by
  rw [State.cur, exec_slot_path hi h, (exec_feed_cfg h ht).1, State.cur]

/-- After a slot whose qword is through the cursor of its path has stepped. -/
theorem slot_through_path (s : State) : (nextQword (stepSlot s)).path s.feed.path = steppedPath s.cur := by
  have h : (nextQword (stepSlot s)).cur = steppedPath s.cur := by rw [nextQword_cur, stepSlot_cur]
  rwa [State.cur, nextQword_feed, stepSlot_feed] at h

/-- The qword of a slot is through: the call goes on or ends. -/
theorem slot_through_feed {s t : State} {q : Qword} {rest : List Qword} (hu : AtUnit s q rest) (hcur : t.cur = s.cur)
    (hfeed : t.feed = s.feed) (hcfg : t.cfg = s.cfg) :
    (nextQword (stepSlot t)).feed = ⟨s.feed.path, leftOfCall s (steppedPath s.cur) rest, false⟩ := by
  simp [nextQword_feed, leftOfCall, hcur, hfeed, hcfg, hu.next]

/-- Settles O7: a PACKED slot's instruction keeps the parser, so `finishUnit` steps the cursor that was there. -/
theorem packedSlotStepsCursor : Obligations.PackedSlotStepsCursor := by
  intro s t q rest hu hn hf he ht
  have hc := unitCtx_packed hn hf
  have hi : isSlot (decode (fetchUnit s q)) = true := by
    rw [fetchUnit_eq hc nofun]; exact decodePacked_isSlot _ q
  have hcur := exec_slot_cur hi he ht
  obtain ⟨hfeed, hcfg⟩ := exec_feed_cfg he ht
  have hf' := slot_through_feed hu hcur hfeed hcfg
  refine ⟨nextQword (stepSlot t), ?_, hfeed ▸ hcur ▸ slot_through_path t, by rw [hf'], by rw [hf'], ?_⟩
  · rw [stepRunsDecodedUnit s t q rest hu he, finishUnit_running ht, hc, advance_packed]
  · rw [hf', leftOfCall, steppedPath_tag]

/-- Settles O8: of the two ways on after a REGLIST value, the qword is through after a high half or a complete tag, and else the high
half is next. -/
theorem reglistHalvesInOrder : Obligations.ReglistHalvesInOrder := by
  intro s t q rest hu hn hf he ht
  have hc := unitCtx_reglist hn hf
  have hi : isSlot (decode (fetchUnit s q)) = true := by
    rw [fetchUnit_reglist hc]; exact decodeReglist_isSlot _ _
  have hcur := exec_slot_cur hi he ht
  obtain ⟨hfeed, hcfg⟩ := exec_feed_cfg he ht
  rw [stepRunsDecodedUnit s t q rest hu he, finishUnit_running ht, hc, advance_reglist, hcur, hfeed]
  by_cases hd : s.feed.half = true ∨ (steppedPath s.cur).nloop = 0#15
  · rw [if_pos hd]
    refine ⟨_, rfl, hfeed ▸ hcur ▸ slot_through_path t, fun hh hl => absurd hd (by simp [hh, hl]), fun _ => ?_⟩
    rw [slot_through_feed hu hcur hfeed hcfg, leftOfCall, steppedPath_tag]
  · rw [if_neg hd]
    refine ⟨_, rfl, ?_, fun _ _ => ?_, fun hd' => absurd hd' hd⟩
    · have hp : (stepSlot t).path (stepSlot t).feed.path = steppedPath s.cur := hcur ▸ stepSlot_cur t
      rwa [stepSlot_feed, hfeed] at hp
    · simp [hfeed, hu.next]

/-! ## Tag boundaries (40_gif_decoder R172, R173) -/

/-- Settles O9: the tag's instruction is the write of its path, and its qword is through. -/
theorem emptyTagTouchesOnlyItsPath : Obligations.EmptyTagTouchesOnlyItsPath := by
  intro s q rest hu hn hq
  have hc := unitCtx_boundary hn
  have he : exec (decode (fetchUnit s q)) s = .next (s.setPath s.feed.path ⟨q, 0, 0⟩) := by
    rw [fetchUnit_eq hc nofun]
    change exec (decodeTag q) s = _
    rw [exec_decodeTag, tagStart_empty hq, encodeTag_tagFields, show (tagFields q).nloop = 0 from hq]
    rfl
  have hcur : (s.setPath s.feed.path ⟨q, 0, 0⟩).cur = ⟨q, 0, 0⟩ := by rw [State.cur, setPath_feed, path_setPath_same]
  have hstuck : (s.setPath s.feed.path ⟨q, 0, 0⟩).stuck = false := by rw [setPath_stuck, hu.running]
  refine ⟨nextQword (s.setPath s.feed.path ⟨q, 0, 0⟩), ?_, unitCtx_boundary (by rw [nextQword_cur, hcur]; rfl), ?_⟩
  · rw [stepRunsDecodedUnit s _ q rest hu he, finishUnit_running hstuck, hc]; rfl
  · rw [nextQword_eq, hcur, setPath_feed, hu.next]
    simp [leftOfCall]

/-- Settles O10: a unit whose path is at a boundary afterwards is through, of every kind. -/
theorem endOfPacketEndsCall : Obligations.EndOfPacketEndsCall := by
  refine ⟨fun s u q rest hu hs ht hn => ?_, fun p => by cases p <;> decide⟩
  obtain ⟨t, he, -⟩ := exec_effect (decode (fetchUnit s q)) s
  rw [stepRunsDecodedUnit s t q rest hu he] at hs
  obtain rfl := Host.Outcome.next.inj hs
  rw [finishUnit_stuck] at ht
  obtain ⟨hfeed, hcfg⟩ := exec_feed_cfg he ht
  rw [finishUnit_running ht] at hn ⊢
  have hcur : (advance (unitCtx s) t).cur = (advance (unitCtx s) t).path s.feed.path := by rw [State.cur, advance_feed_path, hfeed]
  rw [← hcur] at hn ⊢
  refine ⟨unitCtx_boundary hn, ?_⟩
  rw [advance_boundary _ hn]
  simp [leftOfCall, hn, hfeed, hcfg, hu.next]

/-! ## The reserved descriptor (40_gif_decoder R191) -/

/-- A slot whose instruction refuses is consumed, and the call ends. -/
theorem finishUnit_refused {s : State} (hf : s.fault = none) (hr : s.refused.isSome = true) (c : UnitCtx) :
    finishUnit c s = endFeed (advance c s) := by
  simp [finishUnit, hf, hr]

theorem finishUnit_refused_field (c : UnitCtx) (s : State) : (finishUnit c s).refused = s.refused := by rw [finishUnit_parser c s]

/-- After a PACKED slot the cursor of its path has stepped, also if the slot was refused. -/
theorem finishUnit_packed_path {s : State} (hf : s.fault = none) (d : BitVec 4) :
    (finishUnit (.packed d) s).path s.feed.path = steppedPath s.cur := by
  have hc := slot_through_path s
  cases hr : s.refused with
  | none => rwa [finishUnit_running (s.running_iff.2 ⟨hf, hr⟩), advance_packed]
  | some r => rw [finishUnit_refused hf (by rw [hr]; rfl), advance_packed]; exact hc

/-- Settles O16: the two policies are the two arms of the instruction, and `finishUnit` steps the cursor after both. -/
theorem reservedDescriptorPolicy : Obligations.ReservedDescriptorPolicy := by
  refine ⟨rfl, fun s => ⟨exec_reservedB_nop, fun h => ⟨_, exec_reservedB_refuse h, rfl, rfl⟩, fun q rest hu hc => ?_⟩⟩
  obtain ⟨hf, hr⟩ := s.running_iff.1 hu.running
  have hd : decode (fetchUnit s q) = .packedReservedB := by rw [fetchUnit_eq hc nofun]; rfl
  cases hp : s.cfg.reservedDesc with
  | nop =>
    refine ⟨_, stepRunsDecodedUnit s s q rest hu (hd ▸ exec_reservedB_nop hp), ?_, ?_⟩
    · rw [hc]; exact finishUnit_packed_path hf 0xB#4
    · rw [finishUnit_refused_field, hr]; rfl
  | refuse =>
    refine ⟨_, stepRunsDecodedUnit s _ q rest hu (hd ▸ exec_reservedB_refuse hp), ?_, ?_⟩
    · rw [hc]; exact finishUnit_packed_path (s := refuse .reservedDescriptor s) hf 0xB#4
    · rw [finishUnit_refused_field]; rfl

/-! ## Host calls on the parser (40_gif_decoder R170, R179, R199) -/

theorem step_of_call {s : State} {c : HostCall} {rest : List HostCall} (h : AtCall s c rest) :
    step s = .next (hostCall c { s with calls := rest }) := by
  simp [step, h.running, h.idle, callStep, h.next]

theorem softReset_path (mask : BitVec 4) (s : State) (p : PathId) :
    (softReset mask s).path p = if p.inMask mask then ⟨0, 0, 0⟩ else s.path p := by
  cases p <;> rfl

theorem softReset_idem (mask : BitVec 4) (s : State) : softReset mask (softReset mask s) = softReset mask s := by
  have hsel : ∀ (b : Bool) (v : PathState), (if b then PathState.fresh else if b then .fresh else v) = if b then .fresh else v := by
    intro b v; cases b <;> rfl
  simp only [softReset, hsel]

/-- Settles O50: the call is taken, and each path is selected by its own bit of the mask. -/
theorem softResetClearsPaths : Obligations.SoftResetClearsPaths := fun _ mask _ h =>
  ⟨_, step_of_call h, softReset_path mask _, rfl, softReset_idem mask _⟩

theorem qwordOfBytes_cons (b : Byte) (bs : List Byte) : qwordOfBytes (b :: bs) = (qwordOfBytes bs <<< 8) ||| b.setWidth 128 := rfl

/-- Bit i of a qword is bit (i mod 8) of byte (i div 8) (20_memory R80). -/
theorem qwordOfBytes_getLsbD (bs : List Byte) {i : Nat} (hi : i < 128) :
    (qwordOfBytes bs).getLsbD i = (bs.getD (i / 8) 0).getLsbD (i % 8) := by
  induction bs generalizing i with
  | nil => simp [qwordOfBytes]
  | cons b bs ih =>
    rw [qwordOfBytes_cons, BitVec.getLsbD_or, BitVec.getLsbD_shiftLeft, BitVec.getLsbD_setWidth]
    by_cases h8 : i < 8
    · simp [h8, hi, Nat.div_eq_of_lt h8, Nat.mod_eq_of_lt h8]
    · obtain ⟨k, rfl⟩ := Nat.exists_eq_add_of_le' (Nat.le_of_not_lt h8)
      rw [Nat.add_sub_cancel, ih (by omega), Nat.add_div_right _ (by decide), Nat.add_mod_right, BitVec.getLsbD_of_ge b _ (by omega)]
      simp [hi]

theorem qwordsOf_length (n : Nat) (bs : List Byte) : (qwordsOf n bs).length = n := by
  induction n generalizing bs with
  | zero => rfl
  | succ n ih => rw [qwordsOf, List.length_cons, ih]

/-- Qword j of a call is made of its bytes 16 j to 16 j + 15. -/
theorem qwordsOf_getD {n j : Nat} (hj : j < n) (bs : List Byte) :
    (qwordsOf n bs).getD j 0 = qwordOfBytes ((bs.drop (16 * j)).take 16) := by
  induction n generalizing j bs with
  | zero => exact absurd hj (Nat.not_lt_zero j)
  | succ n ih =>
    cases j with
    | zero => rfl
    | succ j =>
      rw [qwordsOf, List.getD_cons_succ, ih (Nat.lt_of_succ_lt_succ hj), List.drop_drop, Nat.mul_succ, Nat.add_comm 16]

theorem qwordsOf_getLsbD {n j i : Nat} (hj : j < n) (hi : i < 128) (bs : List Byte) :
    ((qwordsOf n bs).getD j 0).getLsbD i = (bs.getD (16 * j + i / 8) 0).getLsbD (i % 8) := by
  rw [qwordsOf_getD hj, qwordOfBytes_getLsbD _ hi]
  simp [List.getD_eq_getElem?_getD, List.getElem?_drop, show i / 8 < 16 by omega]

theorem otherMidTag_iff (p : PathId) (s : State) : otherMidTag p s = true ↔ ∃ x, x ≠ p ∧ (s.path x).nloop ≠ 0#15 := by
  simp only [otherMidTag, List.any_eq_true, Bool.and_eq_true, bne_iff_ne]
  exact ⟨fun ⟨x, _, h⟩ => ⟨x, h⟩, fun ⟨x, h⟩ => ⟨x, by cases x <;> decide, h⟩⟩

/-- Settles O48: the two checks in their order, and the qwords of the bytes. -/
theorem transferChecks : Obligations.TransferChecks := by
  intro s p bytes n rest h
  have hbusy := otherMidTag_iff p { s with calls := rest }
  have hstep : step s = .next (startTransfer p bytes n { s with calls := rest }) := step_of_call h
  rw [hstep]
  refine ⟨fun hl => ?_, fun hl hb => ?_, fun hl hb => ⟨qwordsOf n bytes, qwordsOf_length n bytes,
    fun j hj i hi => qwordsOf_getLsbD hj hi bytes, ?_⟩⟩
  · rw [startTransfer, if_pos hl]; rfl
  · rw [startTransfer, if_neg (not_not.2 hl), if_pos (hbusy.2 hb)]; rfl
  · rw [startTransfer, if_neg (not_not.2 hl), if_neg fun hm => hb (hbusy.1 hm)]

end Sys2Proof.Machine
end

section
/-! PROOFS. The register dispatch (41_register_dispatch): what the instructions that write a register execute, and the bits they
store. -/

namespace Sys2Proof.Machine

/-! ## Stored bits (10_state R36, R55 to R78) -/

/-- A word that holds a value's bits in the fields of a mask is the masked value. -/
theorem storesFields_iff_and {fs : List (Nat × Nat)} {mask : Word64} (hm : ∀ i < 64, mask.getLsbD i = inFields fs i) (v w : Word64) :
    storesFields fs v w ↔ w = v &&& mask := by
  constructor
  · intro h
    refine BitVec.eq_of_getLsbD_eq fun i hi => ?_
    rw [h i, BitVec.getLsbD_and, hm i hi, Bool.and_comm]
  · rintro rfl i
    by_cases hi : i < 64
    · rw [BitVec.getLsbD_and, hm i hi, Bool.and_comm]
    · rw [BitVec.getLsbD_of_ge _ i (Nat.le_of_not_lt hi), BitVec.getLsbD_of_ge v i (Nat.le_of_not_lt hi), Bool.and_false]

theorem EnvReg.mask_getLsbD (r : EnvReg) : ∀ i < 64, r.mask.getLsbD i = inFields r.fieldTable i := by cases r <;> decide

theorem CtxReg.mask_getLsbD (r : CtxReg) : ∀ i < 64, r.mask.getLsbD i = inFields r.fieldTable i := by cases r <;> decide

theorem EnvReg.storesFields_iff (r : EnvReg) (v w : Word64) : storesFields r.fieldTable v w ↔ w = r.stored v :=
  storesFields_iff_and r.mask_getLsbD v w

theorem CtxReg.storesFields_iff (r : CtxReg) (v w : Word64) : storesFields r.fieldTable v w ↔ w = r.stored v :=
  storesFields_iff_and r.mask_getLsbD v w

theorem tex2Mask_getLsbD : ∀ i < 64, tex2Mask.getLsbD i = inFields tex2Fields i := by decide

theorem tex2Merge_mergesFields (old v : Word64) : mergesFields tex2Fields old v (tex2Merge old v) := by
  intro i
  by_cases hi : i < 64
  · rw [tex2Merge, BitVec.getLsbD_or, BitVec.getLsbD_and, BitVec.getLsbD_and, BitVec.getLsbD_not, tex2Mask_getLsbD i hi]
    cases inFields tex2Fields i <;> simp [hi]
  · have hge : 64 ≤ i := Nat.le_of_not_lt hi
    simp [BitVec.getLsbD_of_ge _ i hge]

/-- TEX0 has no reserved bit (10_state R69). -/
theorem stored_tex0 (v : Word64) : CtxReg.tex0.stored v = v := BitVec.and_allOnes

/-! ## What the instructions of a register execute (30_encoding R120, R140; 41_register_dispatch R220) -/

theorem exec_ctxRows {r : CtxReg} {c : CtxId} {v : Word64} {i : Instr} (h : i ∈ ctxRows r c v) (s : State) :
    exec i s = .next (caWriteCtx r c v s) := by
  cases r <;> cases c
  all_goals simp only [ctxRows, List.mem_cons, List.not_mem_nil, or_false] at h
  case tex0.c0 | tex0.c1 | clamp.c0 | clamp.c1 => obtain rfl | rfl | rfl := h <;> rfl
  all_goals subst h; rfl

theorem exec_envRows {r : EnvReg} {v : Word64} {i : Instr} (h : i ∈ envRows r v) (s : State) :
    exec i s = .next (caWriteEnv r v s) := by
  cases r
  all_goals simp only [envRows, List.mem_cons, List.not_mem_nil, or_false] at h
  all_goals subst h; rfl

theorem exec_tex2Row (c : CtxId) (v : Word64) (s : State) :
    exec (tex2Row c v) s = .next (caWriteCtx .tex0 c (tex2Merge (s.ctx c).tex0 v) s) := by cases c <;> rfl

theorem exec_adPrmode (v : Word64) (s : State) : exec (.adPrmode v) s = .next (prmodeWrite v s) := rfl

theorem exec_primRows {v : Word64} {i : Instr} (h : i ∈ primRows v) (s : State) :
    exec i s = .next (applyPrim (bits v 0 11) s) := by
  simp only [primRows, List.mem_cons, List.not_mem_nil, or_false] at h
  obtain rfl | rfl | rfl := h <;> rfl

/-- A write of an unassigned address has no effect (41_register_dispatch R284). -/
theorem writeReg_unassigned {addr : BitVec 7} (h : unassignedAddr addr = true) (v : Word64) (s : State) :
    writeReg addr v s = .next s := by
  unfold writeReg
  split
  case h_55 => rfl
  all_goals exact absurd h (by decide)

/-- An A+D slot is a register write, whichever row it decodes to (40_gif_decoder R194). -/
theorem exec_decodeAdSlot (addr : BitVec 7) (v : Word64) (s : State) : exec (decodeAdSlot addr v) s = writeReg addr v s := by
  unfold decodeAdSlot decodeAd
  split <;> rfl

/-- A REGLIST value is a register write at its descriptor (40_gif_decoder R196). -/
theorem exec_decodeReglist {d : BitVec 4} (h : d.toNat ≤ 0xD) (v : Word64) (s : State) :
    exec (decodeReglist d v) s = writeReg (d.setWidth 7) v s := by
  unfold decodeReglist
  split
  case h_15 => exact absurd h (by decide)
  case h_16 => simp only [imp_false] at *; bv_omega
  all_goals rfl

/-- The PACKED slots of TEX0 and CLAMP are register writes at their descriptors (40_gif_decoder R186 to R189). -/
theorem exec_decodePacked_register {d : BitVec 4} (h : 6 ≤ d.toNat) (h' : d.toNat ≤ 9) (q : Qword) (s : State) :
    exec (decodePacked d q) s = writeReg (d.setWidth 7) (bits q 0 64) s := by
  obtain rfl | rfl | rfl | rfl : d = 6 ∨ d = 7 ∨ d = 8 ∨ d = 9 := by bv_omega
  all_goals rfl

/-- A position write kicks its operands when kicks are enabled and does nothing when they are not (41_register_dispatch R227). -/
theorem exec_of_kickOf {i : Instr} {k : KickArgs} (h : kickOf i = some k) (s : State) :
    exec i s = .next (if s.cfg.kickEnabled then kick k.x k.y k.z k.skip { s with vacc := k.acc s.vacc } else s) := by
  unfold kickOf at h
  split at h
  case h_13 => exact absurd h (Option.some_ne_none k).symm
  all_goals obtain rfl := Option.some.inj h; rfl

/-! ## PRIM and PRMODE, each with its flush said once -/

/-- A PRMODE write is a store after at most one flush (41_register_dispatch R250). -/
theorem prmodeWrite_eq (v : Word64) (s : State) : prmodeWrite v s = setEnv .prmode (EnvReg.prmode.stored v)
    (if EnvReg.prmode.stored v ≠ s.env.prmode ∧ s.pending = true ∧ s.ac = false then flush s else s) := by
  unfold prmodeWrite
  by_cases hp : s.pending = true
  · simp only [hp, true_and]; split <;> rfl
  · have := flush_of_not_pending (Bool.eq_false_iff.mpr hp)
    simp [hp, this]

theorem primFlushes_iff (v : BitVec 11) (s : State) : primFlushes v s = true ↔
    (topologyOf s.cfg.prim7 (bits v 0 3)).cls ≠ s.topology.cls ∨ (s.ac = true ∧ bits v 3 8 ≠ bits s.env.prim 3 8) := by
  simp [primFlushes]

/-- The low bits of a field that starts at bit 0 are the value's own. -/
theorem bits_bits {n : Nat} (v : BitVec n) {m lo len : Nat} (h : lo + len ≤ m) : bits (bits v 0 m) lo len = bits v lo len := by
  refine BitVec.eq_of_getLsbD_eq fun i hi => ?_
  simp [bits, hi, show lo + i < m by omega]

theorem bits_setWidth {n m : Nat} (v : BitVec n) {lo len : Nat} (h : lo + len ≤ m) : bits (v.setWidth m) lo len = bits v lo len := by
  refine BitVec.eq_of_getLsbD_eq fun i hi => ?_
  simp [bits, hi, show lo + i < m by omega]

theorem restart_eq (q : VertexQueue) :
    q.restart = if q.ibuf = [] then ⟨[], 0, 0, []⟩ else ⟨q.vbuf.take q.next, q.next, q.next, q.ibuf⟩ := by
  unfold VertexQueue.restart
  split
  · next h => rw [h]
  · rfl

/-! ## The writes -/

/-- Settles O17: every row runs `caWriteCtx`, whose stored value has the bits of the field table. -/
theorem contextRegisterWrite : Obligations.ContextRegisterWrite := fun r c v s _ hi =>
  ⟨r.stored v, (r.storesFields_iff v _).2 rfl, by rw [exec_ctxRows hi, caWriteCtx_eq]⟩

/-- Settles O18: every row runs `caWriteEnv`, whose stored value has the bits of the field table. -/
theorem environmentRegisterWrite : Obligations.EnvironmentRegisterWrite := fun r v s _ hi =>
  ⟨r.stored v, (r.storesFields_iff v _).2 rfl, by rw [exec_envRows hi, caWriteEnv_eq]⟩

/-- Settles O19: TEX2 writes TEX0, all of whose bits are defined, with the merged value. -/
theorem tex2MergesIntoTex0 : Obligations.Tex2MergesIntoTex0 := fun c v s =>
  ⟨tex2Merge (s.ctx c).tex0 v, tex2Merge_mergesFields _ v, by rw [exec_tex2Row, caWriteCtx_eq, stored_tex0]; rfl⟩

/-- Settles O20: PRMODE is in effect while AC = 0. The obligation's own name is taken by the model's function. -/
theorem prmodeWriteFlushesInEffect : Obligations.PrmodeWrite := fun v s =>
  ⟨EnvReg.prmode.stored v, (EnvReg.prmode.storesFields_iff v _).2 rfl, by rw [exec_adPrmode, prmodeWrite_eq]; rfl⟩

/-- Settles O21: the flush check reads the low 11 bits of the value, and the restart is that of the queue after the flush. -/
theorem primWrite : Obligations.PrimWrite := by
  intro v s i hi
  have hflush := primFlushes_iff (bits v 0 11) s
  rw [bits_bits v (by decide), bits_bits v (by decide)] at hflush
  refine ⟨if primFlushes (bits v 0 11) s then flush s else s, fun h => if_pos (hflush.2 h), fun h => if_neg (mt hflush.1 h), ?_⟩
  rw [exec_primRows hi, ← restart_eq]
  rfl

/-! ## Attributes, units without effect, routes, disabled kicks -/

theorem uvSet_plain {s : State} (h : s.cfg.altUvRounding = false) (u v : BitVec 14) :
    uvSet u v s = { s with vacc := { s.vacc with u := u, v := v } } := by
  rw [uvSet, h]; rfl

theorem uvSet_rounded {s : State} (h : s.cfg.altUvRounding = true) (u v : BitVec 14) :
    uvSet u v s = { s with vacc := { s.vacc with u := (Config.uvRound u v).1, v := (Config.uvRound u v).2 } } := by
  rw [uvSet, h]; rfl

theorem exec_uvRows {v : Word64} {i : Instr} (h : i ∈ [Instr.adUv v, .reglistUv v, .packedUv (bits v 0 14) (bits v 16 14)]) (s : State) :
    exec i s = .next (uvSet (bits v 0 14) (bits v 16 14) s) := by
  simp only [List.mem_cons, List.not_mem_nil, or_false] at h
  obtain rfl | rfl | rfl := h <;> rfl

/-- Settles O14: the writes of the accumulator evaluated, and UV under either setting of its rounding. -/
theorem attributeWrites : Obligations.AttributeWrites := by
  intro s
  refine ⟨fun _ _ _ _ => rfl, fun _ _ _ => rfl, fun _ => rfl, fun v i hi => ?_, fun v i hi => ?_, fun v i hi => ?_, fun v i hi =>
    ⟨fun h => by rw [exec_uvRows hi, uvSet_plain h], fun h => by rw [exec_uvRows hi, uvSet_rounded h]⟩⟩
  all_goals
    simp only [List.mem_cons, List.not_mem_nil, or_false] at hi
    obtain rfl | rfl := hi <;> rfl

/-- Settles O15: the arms of these rows answer the state they are given. -/
theorem noEffectUnits : Obligations.NoEffectUnits := fun v s =>
  ⟨rfl, rfl, rfl, rfl, rfl, rfl, rfl, rfl, fun _ h => writeReg_unassigned h v s⟩

/-- Settles O22: every route comes down to `writeReg` at the descriptor's address. -/
theorem routesAgree : Obligations.RoutesAgree := by
  intro v q s d
  refine ⟨fun hd => ?_, fun hlo hhi => ?_⟩
  · rw [decode_reglistUnit, decode_adUnit, exec_decodeAdSlot, exec_decodeReglist hd]
  · rw [decode_adUnit, exec_decodeAdSlot]
    exact exec_decodePacked_register hlo hhi q s

/-- Settles O34: a position write looks at KICK_ENABLED first. -/
theorem disabledKickHasNoEffect : Obligations.DisabledKickHasNoEffect := fun _ _ s hk hoff => by
  rw [exec_of_kickOf hk, hoff]; rfl

end Sys2Proof.Machine
end

section
/-! PROOFS. The frame of the register writes (41_register_dispatch R221, 43_flush_draw R345). -/

namespace Sys2Proof.Machine

theorem SameElsewhere.refl (s : State) : SameElsewhere s s := ⟨rfl, rfl, rfl, rfl, fun _ => rfl, rfl, rfl, rfl, rfl, rfl, rfl⟩

theorem SameElsewhere.trans {s t u : State} (h : SameElsewhere s t) (h' : SameElsewhere t u) : SameElsewhere s u where
  vacc := h'.vacc.trans h.vacc
  qint := h'.qint.trans h.qint
  win := h'.win.trans h.win
  xfer := h'.xfer.trans h.xfer
  path p := (h'.path p).trans (h.path p)
  cfg := h'.cfg.trans h.cfg
  calls := h'.calls.trans h.calls
  feed := h'.feed.trans h.feed
  blobs := h'.blobs.trans h.blobs
  fault := h'.fault.trans h.fault
  refused := h'.refused.trans h.refused

theorem flush_sameElsewhere (s : State) : SameElsewhere s (flush s) := by constructor <;> simp

/-- The flush check in front of a store. -/
theorem ite_flush_sameElsewhere (P : Prop) [Decidable P] (s : State) : SameElsewhere s (if P then flush s else s) := by
  split
  · exact flush_sameElsewhere s
  · exact .refl s

theorem setEnv_sameElsewhere (r : EnvReg) (v : Word64) (s : State) : SameElsewhere s (setEnv r v s) :=
  ⟨rfl, rfl, rfl, rfl, fun _ => rfl, rfl, rfl, rfl, rfl, rfl, rfl⟩

theorem setCtxReg_sameElsewhere (r : CtxReg) (c : CtxId) (v : Word64) (s : State) : SameElsewhere s (setCtxReg r c v s) := by
  cases c <;> exact ⟨rfl, rfl, rfl, rfl, fun _ => rfl, rfl, rfl, rfl, rfl, rfl, rfl⟩

theorem withQueue_sameElsewhere (q : VertexQueue) (s : State) : SameElsewhere s { s with vq := q } :=
  ⟨rfl, rfl, rfl, rfl, fun _ => rfl, rfl, rfl, rfl, rfl, rfl, rfl⟩

theorem flush_sameRegisters (s : State) : SameRegisters s (flush s) := ⟨flush_env s, flush_ctx s⟩

theorem ite_flush_sameRegisters (P : Prop) [Decidable P] (s : State) : SameRegisters s (if P then flush s else s) := by
  split
  · exact flush_sameRegisters s
  · exact ⟨rfl, fun _ => rfl⟩

theorem get_setCtxReg_ne {r x : CtxReg} {c d : CtxId} (h : d ≠ c ∨ x ≠ r) (v : Word64) (s : State) :
    ((setCtxReg r c v s).ctx d).get x = (s.ctx d).get x := by
  by_cases hd : d = c
  · subst hd
    rw [ctx_setCtxReg_same, Ctx.get_set_ne _ (h.resolve_left (not_not.2 rfl))]
  · rw [ctx_setCtxReg_ne s hd]

/-- The frame of a context write. -/
theorem caWriteCtx_frame (r : CtxReg) (c : CtxId) (v : Word64) (s : State) :
    SameElsewhere s (caWriteCtx r c v s) ∧ (caWriteCtx r c v s).env = s.env ∧
      (∀ d x, (d ≠ c ∨ x ≠ r) → ((caWriteCtx r c v s).ctx d).get x = (s.ctx d).get x) ∧
      (s.pending = false ∨ c ≠ s.actx → SameDrawing s (caWriteCtx r c v s)) := by
  rw [caWriteCtx_eq]
  refine ⟨(ite_flush_sameElsewhere _ s).trans (setCtxReg_sameElsewhere ..), ?_, fun d x hdx => ?_, fun h => ?_⟩
  · rw [setCtxReg_env, (ite_flush_sameRegisters _ s).env]
  · rw [get_setCtxReg_ne hdx, (ite_flush_sameRegisters _ s).ctx]
  · rw [if_neg fun ⟨_, hp, hc⟩ => h.elim (fun hn => by simp [hn] at hp) fun hn => hn hc]
    exact ⟨setCtxReg_vq .., setCtxReg_out .., fun a => by rw [setCtxReg_mem]⟩

/-- The frame of a store to the environment after a flush check; with nothing pending no check changes the drawing. -/
theorem setEnv_frame (r : EnvReg) (v : Word64) (P : Prop) [Decidable P] (s : State) :
    SameElsewhere s (setEnv r v (if P then flush s else s)) ∧ (∀ c, (setEnv r v (if P then flush s else s)).ctx c = s.ctx c) ∧
      (∀ x, x ≠ r → (setEnv r v (if P then flush s else s)).env.get x = s.env.get x) ∧
      (s.pending = false → SameDrawing s (setEnv r v (if P then flush s else s))) := by
  have hreg := ite_flush_sameRegisters P s
  refine ⟨(ite_flush_sameElsewhere P s).trans (setEnv_sameElsewhere ..), fun c => hreg.ctx c, fun x hx => ?_, fun hp => ?_⟩
  · rw [setEnv_env, Env.get_set_ne _ hx, hreg.env]
  · rw [flush_of_not_pending hp, ite_self]
    exact ⟨rfl, rfl, fun _ => rfl⟩

/-- Settles O23: each write is a store to one register after at most one flush, and a flush touches the drawing alone. -/
theorem registerWriteFrame : Obligations.RegisterWriteFrame := by
  refine ⟨?ctx, ?env, ?prmode, ?prim⟩
  case ctx =>
    intro r c v s t i hi ht
    have hrow : i ∈ ctxRows r c v → t = caWriteCtx r c v s := fun h => Host.Outcome.next.inj (ht.symm.trans (exec_ctxRows h s))
    have hwrite : ∃ q w, (q = r ∨ q = .tex0) ∧ t = caWriteCtx q c w s := by
      obtain rfl | h := List.mem_cons.1 hi
      · exact ⟨.tex0, _, .inr rfl, Host.Outcome.next.inj (ht.symm.trans (exec_tex2Row c v s))⟩
      · exact ⟨r, v, .inl rfl, hrow h⟩
    obtain ⟨q, w, hq, rfl⟩ := hwrite
    obtain ⟨helse, henv, hget, hdraw⟩ := caWriteCtx_frame q c w s
    refine ⟨helse, henv, fun d x hdx => hget d x (hdx.imp_right fun ⟨hr, h0⟩ => ?other), fun h x hx => ?same, hdraw⟩
    case other => rintro rfl; exact hq.elim hr h0
    case same =>
      obtain ⟨-, -, hget, -⟩ := caWriteCtx_frame r c v s
      rw [hrow h, hget c x (.inr hx)]
  case env =>
    intro r v s t i hi ht
    obtain rfl := Host.Outcome.next.inj (ht.symm.trans (exec_envRows hi s))
    rw [caWriteEnv_eq]
    exact setEnv_frame ..
  case prmode =>
    intro v s t ht
    obtain rfl := Host.Outcome.next.inj (ht.symm.trans (exec_adPrmode v s))
    rw [prmodeWrite_eq]
    exact setEnv_frame ..
  case prim =>
    intro v s t i hi ht
    obtain rfl := Host.Outcome.next.inj (ht.symm.trans (exec_primRows hi s))
    obtain ⟨helse, hctx, hget, hdraw⟩ := setEnv_frame .prim ((bits v 0 11).setWidth 64) (primFlushes (bits v 0 11) s = true) s
    exact ⟨helse.trans (withQueue_sameElsewhere _ _), hctx, hget, fun hp => ⟨(hdraw hp).out, (hdraw hp).mem⟩⟩

end Sys2Proof.Machine
end

section
/-! PROOFS. One Draw before an effective change (41_register_dispatch R222, R285): no pending group outlives the registers it was accepted
under (R286). -/

namespace Sys2Proof.Machine

theorem flush_out_of_pending {s : State} (h : s.pending = true) :
    (flush s).out = s.out ++ pendingDraw s :: failureEvents (rendererVerdict s) := by
  rw [flush_out, if_pos h]; rfl

theorem caWriteCtx_of_stored {r : CtxReg} {c : CtxId} {v : Word64} {s : State} (h : (s.ctx c).get r = r.stored v) :
    caWriteCtx r c v s = s := by
  rw [caWriteCtx, if_neg fun hne => hne.1 h.symm, ← h, setCtxReg_same]

theorem caWriteEnv_of_stored {r : EnvReg} {v : Word64} {s : State} (h : s.env.get r = r.stored v) : caWriteEnv r v s = s := by
  rw [caWriteEnv, if_neg fun hne => hne h.symm, ← h, setEnv_same]

theorem caWriteCtx_of_change {r : CtxReg} {c : CtxId} {v : Word64} {s : State} (h : (s.ctx c).get r ≠ r.stored v) (hc : c = s.actx) :
    caWriteCtx r c v s = setCtxReg r c (r.stored v) (flush s) := by
  rw [caWriteCtx, if_pos ⟨h.symm, hc⟩]

theorem caWriteEnv_of_change {r : EnvReg} {v : Word64} {s : State} (h : s.env.get r ≠ r.stored v) :
    caWriteEnv r v s = setEnv r (r.stored v) (flush s) := by
  rw [caWriteEnv, if_pos h.symm]

/-- Settles O24: a rewrite stores what is there, and an effective change stores after the flush. -/
theorem flushExactlyOnEffectiveChange : Obligations.FlushExactlyOnEffectiveChange := by
  refine ⟨fun r c v s i hi hs => ?_, fun r v s i hi hs => ?_, fun s hp => ⟨fun r v i hi hs => ?_, fun r v i hi hs => ?_⟩⟩
  · rw [exec_ctxRows hi, caWriteCtx_of_stored ((r.storesFields_iff v _).1 hs)]
  · rw [exec_envRows hi, caWriteEnv_of_stored ((r.storesFields_iff v _).1 hs)]
  · refine ⟨_, exec_ctxRows hi s, ?_⟩
    rw [caWriteCtx_of_change (mt (r.storesFields_iff v _).2 hs) rfl, setCtxReg_out, setCtxReg_vq]
    exact ⟨flush_out_of_pending hp, flush_ibuf s⟩
  · refine ⟨_, exec_envRows hi s, ?_⟩
    rw [caWriteEnv_of_change (mt (r.storesFields_iff v _).2 hs)]
    exact ⟨flush_out_of_pending hp, flush_ibuf s⟩

/-- What is in effect is the same in t, or the first event t adds is the Draw of the group pending in s (41_register_dispatch R286). -/
def GroupKept (s t : State) : Prop := inEffect t = inEffect s ∨ ∃ es, t.out = s.out ++ pendingDraw s :: es

theorem SameRegisters.inEffect {s t : State} (h : SameRegisters s t) (hc : t.cfg = s.cfg) : inEffect t = inEffect s := by
  rw [Machine.inEffect, Machine.inEffect, h.env, actx_congr h.env, h.ctx, attr_congr h.env, topology_congr h.env hc]

theorem SameRegisters.groupKept {s t : State} (h : SameRegisters s t) (hc : t.cfg = s.cfg) : GroupKept s t := .inl (h.inEffect hc)

theorem groupKept_of_flush {s t : State} (hp : s.pending = true) (h : ∃ es, t.out = (flush s).out ++ es) : GroupKept s t := by
  obtain ⟨es, h⟩ := h
  exact .inr ⟨failureEvents (rendererVerdict s) ++ es, by rw [h, flush_out_of_pending hp]; simp⟩

/-- A state with the same registers, configuration and group, and the same events, stands for s. -/
theorem GroupKept.congr {s u t : State} (h : GroupKept u t) (hr : SameRegisters s u) (hc : u.cfg = s.cfg) (hq : u.vq = s.vq)
    (ho : u.out = s.out) : GroupKept s t := by
  have hdraw : pendingDraw u = pendingDraw s := by
    rw [pendingDraw, pendingDraw, hr.env, actx_congr hr.env, hr.ctx, attr_congr hr.env, topology_congr hr.env hc, hq]
  obtain h | ⟨es, h⟩ := h
  · exact .inl (h.trans (hr.inEffect hc))
  · exact .inr ⟨es, by rw [h, hdraw, ho]⟩

theorem XferReach.sameRegisters {s t : State} (h : XferReach s t) : SameRegisters s t := ⟨h.env, ctx_eq h.ctx0 h.ctx1⟩

theorem setPath_sameRegisters (p : PathId) (v : PathState) (s : State) : SameRegisters s (s.setPath p v) :=
  ⟨setPath_env .., fun _ => setPath_ctx ..⟩

theorem kick_sameRegisters (x y : BitVec 16) (z : BitVec 32) (skip : Bool) (s : State) : SameRegisters s (kick x y z skip s) :=
  ⟨kick_env .., ctx_eq (kick_ctx0 ..) (kick_ctx1 ..)⟩

theorem caWriteEnv_groupKept (r : EnvReg) (v : Word64) {s : State} (hp : s.pending = true) : GroupKept s (caWriteEnv r v s) := by
  by_cases h : s.env.get r = r.stored v
  · rw [caWriteEnv_of_stored h]; exact .inl rfl
  · rw [caWriteEnv_of_change h]; exact groupKept_of_flush hp ⟨[], by simp⟩

/-- A register of the inactive context is not in effect. -/
theorem setCtxReg_inactive {r : CtxReg} {c : CtxId} {s : State} (h : c ≠ s.actx) (v : Word64) :
    inEffect (setCtxReg r c v s) = inEffect s := by
  have henv : (setCtxReg r c v s).env = s.env := setCtxReg_env ..
  rw [inEffect, inEffect, henv, actx_congr henv, ctx_setCtxReg_ne s h.symm, attr_congr henv, topology_congr henv (setCtxReg_cfg ..)]

theorem caWriteCtx_groupKept (r : CtxReg) (c : CtxId) (v : Word64) {s : State} (hp : s.pending = true) :
    GroupKept s (caWriteCtx r c v s) := by
  by_cases h : (s.ctx c).get r = r.stored v
  · rw [caWriteCtx_of_stored h]; exact .inl rfl
  · by_cases hc : c = s.actx
    · rw [caWriteCtx_of_change h hc]; exact groupKept_of_flush hp ⟨[], by simp⟩
    · rw [caWriteCtx, if_neg fun hne => hc hne.2]; exact .inl (setCtxReg_inactive hc _)

/-- With AC = 1 the attributes are PRIM's, so that PRMODE is not in effect (10_state R39). -/
theorem setPrmode_inEffect {s : State} (h : s.ac = true) (v : Word64) : inEffect (setEnv .prmode v s) = inEffect s := by
  have hattr : (setEnv .prmode v s).attr = s.attr := by
    have hac : (setEnv .prmode v s).ac = true := h
    rw [State.attr, State.attr, if_pos h, if_pos hac]; rfl
  have hactx : (setEnv .prmode v s).actx = s.actx := by rw [State.actx, State.actx, hattr]
  rw [inEffect, inEffect, hattr, hactx]; rfl

theorem prmodeWrite_groupKept (v : Word64) {s : State} (hp : s.pending = true) : GroupKept s (prmodeWrite v s) := by
  unfold prmodeWrite
  split
  · exact groupKept_of_flush hp ⟨[], by simp⟩
  · next h =>
    by_cases hac : s.ac = true
    · exact .inl (setPrmode_inEffect hac _)
    · have hv : EnvReg.prmode.stored v = s.env.get .prmode :=
        not_not.1 fun hne => h ⟨hne, Bool.eq_false_iff.mpr hac⟩
      rw [hv, setEnv_same]; exact .inl rfl

/-- A PRIM value that keeps the class and the attributes in effect keeps all that is in effect. -/
theorem setPrim_inEffect {v : BitVec 11} {s : State} (h : primFlushes v s = false) :
    inEffect (setEnv .prim (v.setWidth 64) s) = inEffect s := by
  have hno := mt (primFlushes_iff v s).2 (Bool.eq_false_iff.mp h)
  obtain ⟨hcls, hbits⟩ := not_or.1 hno
  have htop : (setEnv .prim (v.setWidth 64) s).topology.cls = s.topology.cls := by
    rw [← not_not.1 hcls, ← bits_setWidth (m := 64) v (by decide)]; rfl
  have hattr : (setEnv .prim (v.setWidth 64) s).attr = s.attr := by
    have hac : (setEnv .prim (v.setWidth 64) s).ac = s.ac := rfl
    rw [State.attr, State.attr, hac]
    split
    · next ha =>
      rw [← not_not.1 fun hne => hbits ⟨ha, hne⟩, ← bits_setWidth (m := 64) v (by decide)]; rfl
    · rfl
  have hactx : (setEnv .prim (v.setWidth 64) s).actx = s.actx := by rw [State.actx, State.actx, hattr]
  rw [inEffect, inEffect, htop, hattr, hactx]; rfl

theorem applyPrim_groupKept (v : BitVec 11) {s : State} (hp : s.pending = true) : GroupKept s (applyPrim v s) := by
  unfold applyPrim
  split
  · exact groupKept_of_flush hp ⟨[], by simp⟩
  · next h => exact .inl (setPrim_inEffect (Bool.eq_false_iff.mpr h))

/-- A TRXDIR write flushes, whatever its value (41_register_dispatch R279). -/
theorem trxdirWrite_groupKept (v : Word64) {s : State} (hp : s.pending = true) : GroupKept s (trxdirWrite v s) :=
  groupKept_of_flush hp (transferStart_reach _ (setEnv .trxdir (EnvReg.trxdir.stored v) (flush s))).out_grows

theorem tagStart_groupKept (flg : BitVec 2) (t : TagFields) {s : State} (hp : s.pending = true) : GroupKept s (tagStart flg t s) := by
  have hpath := setPath_sameRegisters s.feed.path ⟨encodeTag flg t, t.nloop, 0#4⟩ s
  unfold tagStart
  dsimp only
  split
  · exact hpath.groupKept (setPath_cfg ..)
  · have hq : SameRegisters s { s.setPath s.feed.path ⟨encodeTag flg t, t.nloop, 0#4⟩ with qint := qintOne } :=
      ⟨hpath.env, hpath.ctx⟩
    split
    · refine (applyPrim_groupKept t.prim ?_).congr hq (setPath_cfg ..) (setPath_vq ..) (setPath_out ..)
      exact (setPath_pending ..).trans hp
    · exact hq.groupKept (setPath_cfg ..)

theorem imageQword_groupKept (q : Qword) (s : State) : GroupKept s (imageQword q s) := by
  have h := xferData_reach (bytesOf 16 q) s
  unfold imageQword
  generalize xferData (bytesOf 16 q) s = t at h
  have hpath := setPath_sameRegisters t.feed.path { t.path t.feed.path with nloop := (t.path t.feed.path).nloop - 1#15 } t
  exact .inl ((hpath.inEffect (setPath_cfg ..)).trans (h.sameRegisters.inEffect h.cfg))

/-- Every effect of an instruction keeps a pending group under its registers. -/
theorem Effect.groupKept {s t : State} (h : Effect s t) (hp : s.pending = true) : GroupKept s t := by
  cases h with
  | none => exact .inl rfl
  | env r v => exact caWriteEnv_groupKept r v hp
  | ctx r c v => exact caWriteCtx_groupKept r c v hp
  | prmode v => exact prmodeWrite_groupKept v hp
  | prim v => exact applyPrim_groupKept v hp
  | accumulator a q => exact .inl rfl
  | kickF x y z f skip => exact .inl ((kick_sameRegisters x y z skip (fogSet f s)).inEffect (kick_cfg ..))
  | kick x y z skip => exact (kick_sameRegisters x y z skip s).groupKept (kick_cfg ..)
  | trxdir v => exact trxdirWrite_groupKept v hp
  | data bs => exact (xferData_reach bs s).sameRegisters.groupKept (xferData_reach bs s).cfg
  | tag flg t => exact tagStart_groupKept flg t hp
  | image q => exact imageQword_groupKept q s
  | reserved => exact .inl rfl

/-- Settles O25: every write path flushes before it changes what is in effect. -/
theorem pendingGroupDrawnUnderItsRegisters : Obligations.PendingGroupDrawnUnderItsRegisters := by
  intro i s t hp ht
  obtain ⟨u, hu, he⟩ := exec_effect i s
  obtain rfl : u = t := Host.Outcome.next.inj (hu.symm.trans ht)
  exact he.groupKept hp

end Sys2Proof.Machine
end

section
/-! PROOFS. The vertex queue's invariant (42_vertex_kick R310, R313, 43_flush_draw R343, R355, 10_state R43, R44) along every step: what
each operation does to the queue's size, then to the whole invariant. -/

namespace Sys2Proof.Machine

/-! ## Capacities (10_state R43, 42_vertex_kick R310) -/

/-- What fits in a capacity is a number up to it; no capacity is unbounded. -/
theorem exceeds_eq_false_iff (cap : Option Nat) (n : Nat) : exceeds cap n = false ↔ fits cap n := by
  cases cap <;> simp [exceeds, fits]

theorem exceeds_iff (cap : Option Nat) (n : Nat) : exceeds cap n = true ↔ ¬ fits cap n := by
  rw [← exceeds_eq_false_iff, Bool.not_eq_false]

theorem exceeds_zero (cap : Option Nat) : exceeds cap 0 = false := by
  rw [exceeds_eq_false_iff]
  exact fun c _ => Nat.zero_le c

theorem exceeds_of_le {cap : Option Nat} {m n : Nat} (h : m ≤ n) (hn : exceeds cap n = false) : exceeds cap m = false := by
  rw [exceeds_eq_false_iff] at hn ⊢
  exact fun c hc => h.trans (hn c hc)

theorem VertexQueue.Fits.of_le {q r : VertexQueue} {cfg : Cfg} (h : q.Fits cfg) (hv : r.vbuf.length ≤ q.vbuf.length)
    (hi : r.ibuf.length ≤ q.ibuf.length) : r.Fits cfg :=
  ⟨exceeds_of_le hv h.verts, exceeds_of_le hi h.indices⟩

theorem carryForward_fits {q : VertexQueue} {cfg : Cfg} (h : q.Fits cfg) (t : Topology) : (carryForward t q).Fits cfg :=
  h.of_le ((carried_length_le t q).trans (Nat.sub_le _ _)) (Nat.zero_le _)

theorem restart_fits {q : VertexQueue} {cfg : Cfg} (h : q.Fits cfg) : q.restart.Fits cfg := by
  unfold VertexQueue.restart
  split
  · exact h.of_le (Nat.zero_le _) (Nat.le_refl _)
  · exact h.of_le (List.length_take_le' _ _) (Nat.le_refl _)

theorem reject_fits {q : VertexQueue} {cfg : Cfg} (h : q.Fits cfg) (t : Topology) : (q.reject t).Fits cfg := by
  unfold VertexQueue.reject
  split
  · exact h.of_le (List.length_take_le' _ _) (Nat.le_refl _)
  · exact h.of_le (List.length_take_le' _ _) (Nat.le_refl _)
  · exact h.of_le (Nat.le_refl _) (Nat.le_refl _)
  · exact h

/-- The compaction drops the vertices between `next` and `head` (42_vertex_kick R309). -/
theorem compact_length_le (q : VertexQueue) (n : Nat) : (q.compact n).vbuf.length ≤ q.vbuf.length := by
  unfold VertexQueue.compact
  split
  · simp only [List.length_append, List.length_take, List.length_drop]; omega
  · exact Nat.le_refl _

theorem accept_vbuf_length_le (q : VertexQueue) (t : Topology) : (q.accept t).vbuf.length ≤ q.vbuf.length := by
  cases t
  case lineStrip => exact compact_length_le q 2
  case triangleStrip => exact compact_length_le q 3
  all_goals exact Nat.le_refl _

/-- An accept emits the indices of one primitive (42_vertex_kick R309). -/
theorem accept_ibuf_length {t : Topology} (h : t ≠ .invalid) (q : VertexQueue) :
    (q.accept t).ibuf.length = q.ibuf.length + t.verts := by
  cases t
  case invalid => exact absurd rfl h
  all_goals simp [VertexQueue.accept, VertexQueue.emitRun, compact_ibuf, Topology.verts]

theorem accept_fits {q : VertexQueue} {t : Topology} {cfg : Cfg} (h : t ≠ .invalid) (hv : exceeds cfg.vbufMax q.vbuf.length = false)
    (hi : exceeds cfg.ibufMax (q.ibuf.length + t.verts) = false) : (q.accept t).Fits cfg :=
  ⟨exceeds_of_le (accept_vbuf_length_le q t) hv, exceeds_of_le (accept_ibuf_length h q).le hi⟩

theorem flush_fits {s : State} {cfg : Cfg} (h : s.vq.Fits cfg) : (flush s).vq.Fits cfg := by
  rw [flush_vq]
  split
  · exact carryForward_fits h _
  · exact h

/-- A kick checks both capacities before it appends (42_vertex_kick R310). -/
theorem kick_fits {s : State} (x y : BitVec 16) (z : BitVec 32) (skip : Bool) (h : s.vq.Fits s.cfg) :
    (kick x y z skip s).vq.Fits s.cfg := by
  have hpushed : exceeds s.cfg.vbufMax (s.vq.vbuf.length + 1) = false → (pushVertex x y z s).vq.Fits s.cfg := fun hroom =>
    ⟨by simpa [pushVertex, VertexQueue.append] using hroom, h.indices⟩
  have hk := kick_cases x y z skip s
  generalize kick x y z skip s = t at hk ⊢
  cases hk with
  | full => exact h
  | few hroom => exact hpushed hroom
  | rejected hroom => exact reject_fits (hpushed hroom) _
  | indexFull hroom => exact hpushed hroom
  | accepted hroom _ hinside hindices => exact accept_fits (accept_not_invalid hinside) (hpushed hroom).verts hindices
  | hazard hroom _ hinside hindices =>
    exact flush_fits (accept_fits (accept_not_invalid hinside) (hpushed hroom).verts hindices)

/-! ## The invariant under each operation -/

/-- The invariant looks at the queue, the topology, the capacities and the fault. -/
theorem State.QueueOk.congr {s t : State} (h : s.QueueOk) (hq : t.vq = s.vq) (ht : t.topology = s.topology)
    (hv : t.cfg.vbufMax = s.cfg.vbufMax) (hi : t.cfg.ibufMax = s.cfg.ibufMax) (hf : t.fault = s.fault) : t.QueueOk where
  cursors := by rw [hq]; exact h.cursors
  fits := ⟨by rw [hq, hv]; exact h.fits.verts, by rw [hq, hi]; exact h.fits.indices⟩
  between hn := by rw [hq, ht]; exact h.between (hf ▸ hn)

theorem SameButParser.queueOk {s t : State} (h : SameButParser s t) (hs : s.QueueOk) : t.QueueOk :=
  hs.congr (by rw [h]) (by rw [h]; rfl) (by rw [h]) (by rw [h]) (by rw [h])

theorem XferReach.fits {s t : State} {cfg : Cfg} (h : XferReach s t) (hs : s.vq.Fits cfg) : t.vq.Fits cfg := by
  induction h with
  | flush _ ih => exact flush_fits ih
  | _ => assumption

/-- The engine touches the queue by flushes only. -/
theorem XferReach.queueOk {s t : State} (h : XferReach s t) (hs : s.QueueOk) : t.QueueOk where
  cursors := h.cursorsOk hs.cursors
  fits := by rw [h.cfg]; exact h.fits hs.fits
  between hf := h.between (hs.between (h.fault ▸ hf))

theorem flush_queueOk {s : State} (h : s.QueueOk) : (flush s).QueueOk := (XferReach.flush .refl).queueOk h

theorem ite_flush_queueOk (P : Prop) [Decidable P] {s : State} (h : s.QueueOk) : (if P then flush s else s).QueueOk := by
  split
  · exact flush_queueOk h
  · exact h

/-- Only PRIM chooses the topology (10_state R39). -/
theorem setEnv_topology {r : EnvReg} (h : r ≠ .prim) (v : Word64) (s : State) : (setEnv r v s).topology = s.topology := by
  have hget : (s.env.set r v).get .prim = s.env.get .prim := Env.get_set_ne _ h.symm v
  exact congrArg (fun w => topologyOf s.cfg.prim7 (bits w 0 3)) hget

theorem setEnv_queueOk {r : EnvReg} (hr : r ≠ .prim) (v : Word64) {s : State} (h : s.QueueOk) : (setEnv r v s).QueueOk :=
  h.congr rfl (setEnv_topology hr v s) rfl rfl rfl

theorem setCtxReg_queueOk (r : CtxReg) (c : CtxId) (v : Word64) {s : State} (h : s.QueueOk) : (setCtxReg r c v s).QueueOk :=
  h.congr (by simp) (topology_congr (by simp) (by simp)) (by simp) (by simp) (by simp)

theorem setPath_queueOk (p : PathId) (v : PathState) {s : State} (h : s.QueueOk) : (s.setPath p v).QueueOk :=
  (setPath_parser s p v).queueOk h

theorem setPrim_topology (v : BitVec 11) (s : State) :
    (setEnv .prim (v.setWidth 64) s).topology = topologyOf s.cfg.prim7 (bits v 0 3) := by
  rw [← bits_setWidth (m := 64) v (by decide)]; rfl

/-- A restart under a topology of the same class, or with no index pending, leaves the queue as it is between kicks
(41_register_dispatch R230). -/
theorem restart_between_of_cls {t u : Topology} {q : VertexQueue} (hb : q.Between t) (h : q.ibuf = [] ∨ u.cls = t.cls) :
    q.restart.Between u := by
  obtain hnone | hcls := h
  · exact restart_between (by simp [hnone]) fun _ => hnone
  · refine restart_between (by rw [verts_of_cls hcls]; exact hb.whole) fun hg => hb.discardNone ?_
    rw [discard_iff_cls, ← hcls]
    exact (discard_iff_cls u).1 hg

theorem applyPrim_queueOk (v : BitVec 11) {s : State} (h : s.QueueOk) : (applyPrim v s).QueueOk := by
  have hchecked : ∀ u : State, u.QueueOk → (u.vq.ibuf = [] ∨ (topologyOf u.cfg.prim7 (bits v 0 3)).cls = u.topology.cls) →
      State.QueueOk { setEnv .prim (v.setWidth 64) u with vq := u.vq.restart } := fun u hu hkept =>
    ⟨restart_cursorsOk hu.cursors, restart_fits hu.fits, fun hf => by
      have ht := setPrim_topology v u
      exact ht ▸ restart_between_of_cls (hu.between hf) hkept⟩
  unfold applyPrim
  by_cases hp : primFlushes v s = true
  · rw [if_pos hp]
    exact hchecked _ (flush_queueOk h) (.inl (flush_ibuf s))
  · rw [if_neg hp]
    exact hchecked s h (.inr (not_not.1 fun hne => hp ((primFlushes_iff v s).2 (.inl hne))))

theorem tagStart_queueOk (flg : BitVec 2) (f : TagFields) {s : State} (h : s.QueueOk) : (tagStart flg f s).QueueOk := by
  have hpath := setPath_queueOk s.feed.path ⟨encodeTag flg f, f.nloop, 0#4⟩ h
  have hq : State.QueueOk { s.setPath s.feed.path ⟨encodeTag flg f, f.nloop, 0#4⟩ with qint := qintOne } :=
    hpath.congr rfl rfl rfl rfl rfl
  unfold tagStart
  dsimp only
  split
  · exact hpath
  · split
    · exact applyPrim_queueOk f.prim hq
    · exact hq

theorem imageQword_queueOk (q : Qword) {s : State} (h : s.QueueOk) : (imageQword q s).QueueOk := by
  have hdata := (xferData_reach (bytesOf 16 q) s).queueOk h
  unfold imageQword
  generalize xferData (bytesOf 16 q) s = t at hdata
  exact setPath_queueOk _ _ hdata

/-- A kick that faults leaves the part that holds between kicks (60_exceptions R416). -/
theorem kick_queueOk (x y : BitVec 16) (z : BitVec 32) (skip : Bool) {s : State} (h : s.QueueOk) (hf : s.fault = none) :
    (kick x y z skip s).QueueOk := by
  obtain ⟨hcursors, hbetween⟩ := kick_queue x y z skip h.cursors (h.between hf)
  refine ⟨hcursors, by rw [kick_cfg]; exact kick_fits x y z skip h.fits, fun hnone => ?_⟩
  rw [kick_topology]
  exact hbetween (hnone.trans hf.symm) hf

/-- Every effect of an instruction on a block without a fault keeps the queue in order. -/
theorem Effect.queueOk {s t : State} (h : Effect s t) (hs : s.QueueOk) (hf : s.fault = Option.none) : t.QueueOk := by
  cases h with
  | none => exact hs
  | env r v hprim => rw [caWriteEnv_eq]; exact setEnv_queueOk hprim _ (ite_flush_queueOk _ hs)
  | ctx r c v => rw [caWriteCtx_eq]; exact setCtxReg_queueOk r c _ (ite_flush_queueOk _ hs)
  | prmode v => rw [prmodeWrite_eq]; exact setEnv_queueOk (by decide) _ (ite_flush_queueOk _ hs)
  | prim v => exact applyPrim_queueOk v hs
  | accumulator a q => exact hs.congr rfl rfl rfl rfl rfl
  | kickF x y z f skip => exact kick_queueOk x y z skip (s := fogSet f s) (hs.congr rfl rfl rfl rfl rfl) hf
  | kick x y z skip => exact kick_queueOk x y z skip hs hf
  | trxdir v => exact (transferStart_reach _ _).queueOk (setEnv_queueOk (by decide) _ (flush_queueOk hs))
  | data bs => exact (xferData_reach bs s).queueOk hs
  | tag flg f => exact tagStart_queueOk flg f hs
  | image q => exact imageQword_queueOk q hs
  | reserved => exact hs.congr rfl rfl rfl rfl rfl

/-! ## Host calls -/

theorem VertexQueue.empty_between (t : Topology) : VertexQueue.empty.Between t :=
  ⟨Nat.zero_mod _, fun _ => verts_pos t, fun _ => Nat.le_refl _, fun _ => rfl⟩

theorem powerOn_queueOk (s : State) : (powerOn s).QueueOk :=
  ⟨reset_image_ok.cursors, ⟨exceeds_zero _, exceeds_zero _⟩, fun _ => VertexQueue.empty_between _⟩

/-- An image that Defrost takes is in order under the block's policy and capacities (log 22). -/
theorem restore_queueOk {b : Image} {s : State} (h : b.Ok s.cfg) : (restore b s).QueueOk := ⟨h.cursors, h.fits, fun _ => h.between⟩

theorem refuse_queueOk (r : Refusal) {s : State} (h : s.QueueOk) : (refuse r s).QueueOk := h.congr rfl rfl rfl rfl rfl

theorem hostCall_queueOk (c : HostCall) {s : State} (h : s.QueueOk) : (hostCall c s).QueueOk := by
  cases c with
  | powerOn => exact powerOn_queueOk s
  | transfer p bytes size =>
    simp only [hostCall, startTransfer]
    split
    · exact refuse_queueOk _ h
    · split
      · exact refuse_queueOk _ h
      · exact h.congr rfl rfl rfl rfl rfl
  | softReset mask => exact h.congr rfl rfl rfl rfl rfl
  | flushRequest => exact flush_queueOk h
  | readFIFO n => exact (readFIFO_reach n s).queueOk h
  | reconfigure a u k => exact h.congr rfl rfl rfl rfl rfl
  | freeze => exact h.congr rfl rfl rfl rfl rfl
  | defrost blob =>
    simp only [hostCall, defrost]
    split
    · next b hb => exact restore_queueOk (thawed_ok hb)
    · exact refuse_queueOk _ h

theorem State.fault_of_running {s : State} (h : s.stuck = false) : s.fault = none := by
  simpa using (Bool.or_eq_false_iff.1 h).1

/-- Settles O54: an instruction runs in a block without a fault, and a Defrost takes no image out of order. -/
theorem stepKeepsQueueInOrder : Obligations.StepKeepsQueueInOrder := by
  intro s t hs h
  have htake : ∀ rest, State.QueueOk { s with calls := rest } := fun _ => hs.congr rfl rfl rfl rfl rfl
  cases step_cases h with
  | stuckPower rest => exact powerOn_queueOk _
  | stuckDrop c rest => exact htake rest
  | unit u q rest hrun _ _ he => exact (finishUnit_parser _ u).queueOk (he.queueOk hs (State.fault_of_running hrun))
  | call c rest => exact hostCall_queueOk c (htake rest)
  | idle => exact hs

end Sys2Proof.Machine
end

section
/-! PROOFS. The vertex kick (42_vertex_kick): what a position write does once its vertex is appended, by the outcome of the test and of
the two capacity checks. -/

namespace Sys2Proof.Machine

/-! ## The append (42_vertex_kick R302, R304) -/

/-- Steps 1 and 2 of a kick, with F written first in the forms that have it. -/
theorem pushVertex_eq_appended (k : KickArgs) (s : State) :
    pushVertex k.x k.y k.z { s with vacc := k.acc s.vacc } = k.appended s := rfl

theorem live_appended (k : KickArgs) (s : State) : (k.appended s).vq.live = k.live s := by
  simp [KickArgs.appended, KickArgs.verts, KickArgs.live, VertexQueue.live]

/-! ## Steps 5 to 7 of a kick (42_vertex_kick R302), by outcome -/

theorem resolvePrimitive_of_rejected {skip : Bool} {s : State} (h : (skip || reject s s.topology s.vq.live) = true) :
    resolvePrimitive skip s = { s with vq := s.vq.reject s.topology } := if_pos h

theorem resolvePrimitive_of_tested {skip : Bool} {s : State} (h : (skip || reject s s.topology s.vq.live) = false) :
    resolvePrimitive skip s =
      if exceeds s.cfg.ibufMax (s.vq.ibuf.length + s.topology.verts) then raise .bufferExhausted s
      else if s.cfg.autoFlush && hazard s then flush { s with vq := s.vq.accept s.topology }
      else { s with vq := s.vq.accept s.topology } := if_neg (Bool.eq_false_iff.mp h)

/-- A position write with kicks enabled and room for its vertex. -/
theorem exec_of_kickRuns {i : Instr} {k : KickArgs} {s : State} (h : KickRuns i k s) : exec i s =
    .next (if k.live s < s.topology.verts then k.appended s else resolvePrimitive k.skip (k.appended s)) := by
  have hroom := (exceeds_eq_false_iff _ _).2 h.room
  rw [exec_of_kickOf h.operands, if_pos h.enabled, kick, if_neg (Bool.eq_false_iff.mp hroom), pushVertex_eq_appended, live_appended]
  rfl

/-- A complete primitive goes on to the test. -/
theorem exec_of_complete {i : Instr} {k : KickArgs} {s : State} (h : KickRuns i k s) (hc : s.topology.verts ≤ k.live s) :
    exec i s = .next (resolvePrimitive k.skip (k.appended s)) := by
  rw [exec_of_kickRuns h, if_neg (Nat.not_lt.2 hc)]

/-- A complete primitive that passes the test goes on to the capacity check of its indices. -/
theorem exec_of_tested {i : Instr} {k : KickArgs} {s : State} (h : KickRuns i k s) (hc : s.topology.verts ≤ k.live s)
    (hskip : k.skip = false) (hin : reject (k.appended s) s.topology (k.live s) = false) : exec i s =
      .next (if exceeds s.cfg.ibufMax (s.vq.ibuf.length + s.topology.verts) then raise .bufferExhausted (k.appended s)
        else if s.cfg.autoFlush && hazard s then flush { k.appended s with vq := (k.appended s).vq.accept s.topology }
        else { k.appended s with vq := (k.appended s).vq.accept s.topology }) := by
  rw [exec_of_complete h hc, resolvePrimitive_of_tested]
  · rfl
  · rw [live_appended, hskip]; exact hin

theorem exec_of_accepts {i : Instr} {k : KickArgs} {s : State} (h : KickRuns i k s) (ha : KickAccepts k s) : exec i s =
    .next (if s.cfg.autoFlush && hazard s then flush { k.appended s with vq := (k.appended s).vq.accept s.topology }
      else { k.appended s with vq := (k.appended s).vq.accept s.topology }) := by
  have hroom := (exceeds_eq_false_iff _ _).2 ha.room
  rw [exec_of_tested h ha.complete ha.drawn ha.inside, if_neg (Bool.eq_false_iff.mp hroom)]

/-! ## The queue by topology (42_vertex_kick R308, R309) -/

theorem reject_eq_rejectedQueue (q : VertexQueue) (t : Topology) :
    q.reject t = rejectedQueue t q.vbuf q.head q.next q.ibuf := by cases t <;> rfl

/-- A strip's accept, with the compaction when rejects have left `head` past `next`. -/
theorem compact_emitRun (q : VertexQueue) (n : Nat) :
    (q.head ≤ q.next → (q.compact n).emitRun n 1 = ⟨q.vbuf, q.head + 1, q.head + n, q.ibuf ++ List.range' q.head n⟩) ∧
    (q.next < q.head → (q.compact n).emitRun n 1 =
      ⟨q.vbuf.take q.next ++ (q.vbuf.drop q.head).take n, q.next + 1, q.next + n, q.ibuf ++ List.range' q.next n⟩) :=
  ⟨fun h => by rw [VertexQueue.compact, if_neg (Nat.not_lt.2 h)]; rfl, fun h => by rw [VertexQueue.compact, if_pos h]; rfl⟩

theorem accept_acceptedQueue {t : Topology} (h : t ≠ .invalid) (q : VertexQueue) :
    acceptedQueue t q.vbuf q.head q.next q.ibuf (q.accept t) := by
  cases t
  case invalid => exact absurd rfl h
  case lineStrip => exact compact_emitRun q 2
  case triangleStrip => exact compact_emitRun q 3
  all_goals rfl

/-- The queue of an accepted kick is that of its topology. -/
theorem KickAccepts.acceptedQueue {k : KickArgs} {s : State} (h : KickAccepts k s) :
    acceptedQueue s.topology (k.verts s) s.vq.head s.vq.next s.vq.ibuf ((k.appended s).vq.accept s.topology) :=
  accept_acceptedQueue (accept_not_invalid (skip := false) h.inside) (k.appended s).vq

/-! ## The obligations on the queue -/

/-- Settles O26: too few vertices end the kick after the append. -/
theorem kickStoresVertex : Obligations.KickStoresVertex := fun _ _ _ h hfew => by rw [exec_of_kickRuns h, if_pos hfew]

/-- Settles O28: without a hazard flush the kick ends with the accept, which is the rule's by topology. -/
theorem kickEmitsPrimitive : Obligations.KickEmitsPrimitive := fun _ _ _ h ha hno =>
  ⟨_, by rw [exec_of_accepts h ha, hno]; rfl, ha.acceptedQueue⟩

/-- Settles O29: the skip flag and the trivial rejection lead to the same reject. -/
theorem kickRejectsPrimitive : Obligations.KickRejectsPrimitive := by
  intro i k s h hc hrejected
  rw [exec_of_complete h hc, resolvePrimitive_of_rejected, reject_eq_rejectedQueue]
  · rfl
  · rw [live_appended]
    exact Bool.or_eq_true_iff.2 hrejected

/-- Settles O31: the two capacity checks, and `raise` records the fault and ends the feed call. -/
theorem bufferExhaustedIsFatal : Obligations.BufferExhaustedIsFatal := by
  refine ⟨rfl, rfl, fun i k s hk hon => ⟨fun hfull => ?_, fun hroom hc hskip hin hfull => ?_⟩⟩
  · rw [exec_of_kickOf hk, if_pos hon, kick, if_pos ((exceeds_iff _ _).2 hfull)]
    rfl
  · rw [exec_of_tested ⟨hk, hon, hroom⟩ hc hskip hin, if_pos ((exceeds_iff _ _).2 hfull)]
    rfl

theorem topology_of_discard {s : State} (hp : s.cfg.prim7 = .discard) (ht : bits s.env.prim 0 3 = 7#3) : s.topology = .invalid := by
  rw [State.topology, hp, ht]; rfl

/-- Settles O35: a discarded vertex completes a primitive by itself, and the reject drops it from `head` on, which is the end of the
buffer between kicks. -/
theorem discardedTypeDropsVertex : Obligations.DiscardedTypeDropsVertex := by
  intro i k s h hp h7 hq hf
  have ht := topology_of_discard hp h7
  have hend : s.vq.head = s.vq.vbuf.length := by
    have hbetween := hq.between hf
    rw [ht] at hbetween
    have hfew : s.vq.vbuf.length - s.vq.head < 1 := hbetween.partialFew (by decide)
    have hle := hq.cursors.head_le
    omega
  have hcomplete : s.topology.verts ≤ k.live s := by
    rw [ht, KickArgs.live, hend]; simp [Topology.verts]
  have hreject : reject (k.appended s) s.topology (k.live s) = true := by rw [ht]; rfl
  refine ⟨_, kickRejectsPrimitive i k s h hcomplete (.inr hreject), ?_, rfl⟩
  rw [ht, rejectedQueue, KickArgs.verts, List.take_append_of_le_length hend.le, hend, List.take_length, ← hend]

/-! ## The hazard (42_vertex_kick R311) -/

theorem hazard_iff_meetsHazard (s : State) : hazard s = true ↔ meetsHazard s := by
  unfold hazard hazardOf meetsHazard
  cases s.cfg.hazard with
  | standard => simp [attrTme, fbp, tbp0]
  | other n => rfl

theorem accept_ibuf_ne_nil {t : Topology} (h : t ≠ .invalid) (q : VertexQueue) : (q.accept t).ibuf ≠ [] := by
  have hlength := accept_ibuf_length h q
  have hpos := verts_pos t
  exact List.ne_nil_of_length_pos (by omega)

/-- Settles O32: an accepted primitive is pending, so that the flush draws. -/
theorem hazardFlushesPrimitive : Obligations.HazardFlushesPrimitive := by
  refine ⟨rfl, fun i k s h ha hauto hhazard => ⟨_, ha.acceptedQueue, ?_, ?_⟩⟩
  · rw [exec_of_accepts h ha, hauto, (hazard_iff_meetsHazard s).2 hhazard]
    rfl
  · rw [flush_out_of_pending ((pending_iff _).2 (accept_ibuf_ne_nil (accept_not_invalid (skip := false) ha.inside) _))]
    rfl

/-! ## The frame (42_vertex_kick R314) -/

/-- A kick draws by its hazard flush only. -/
theorem kick_drawing (x y : BitVec 16) (z : BitVec 32) (skip : Bool) {s : State} (h : (s.cfg.autoFlush && hazard s) = false) :
    (kick x y z skip s).out = s.out ∧ (kick x y z skip s).mem = s.mem := by
  have hk := kick_cases x y z skip s
  generalize kick x y z skip s = t at hk ⊢
  cases hk with
  | hazard _ _ _ _ hyes => exact absurd (h.symm.trans hyes) (by decide)
  | _ => exact ⟨rfl, rfl⟩

theorem KickArgs.acc_f (k : KickArgs) (a : VAcc) : { k.acc a with f := a.f } = a := by
  unfold KickArgs.acc
  split <;> rfl

theorem KickArgs.acc_of_none {k : KickArgs} (h : k.f = none) (a : VAcc) : k.acc a = a := by rw [KickArgs.acc, h]

/-- Settles O33: a kick after F is written, or nothing at all. -/
theorem kickFrame : Obligations.KickFrame := by
  intro i k s t hk ht
  obtain rfl := Host.Outcome.next.inj ((exec_of_kickOf hk s).symm.trans ht)
  split
  · have hdrawing := kick_drawing k.x k.y k.z k.skip (s := { s with vacc := k.acc s.vacc })
    have hreg := kick_sameRegisters k.x k.y k.z k.skip { s with vacc := k.acc s.vacc }
    refine ⟨⟨hreg.env, hreg.ctx⟩, kick_qint .., kick_xfer .., ?path, kick_cfg .., kick_calls .., kick_blobs .., kick_refused .., ?f,
      ?noF, ?drawing⟩
    case path => exact path_eq (kick_path0 ..) (kick_path1 ..) (kick_path2 ..) (kick_path3 ..)
    case f => rw [kick_vacc]; exact k.acc_f s.vacc
    case noF => rw [kick_vacc]; exact fun hn => KickArgs.acc_of_none hn s.vacc
    case drawing => exact fun hno => ⟨(hdrawing hno).1, fun a => by rw [(hdrawing hno).2]⟩
  · exact ⟨⟨rfl, fun _ => rfl⟩, rfl, rfl, fun _ => rfl, rfl, rfl, rfl, rfl, rfl, fun _ => rfl, fun _ => ⟨rfl, fun _ => rfl⟩⟩

/-! ## Trivial rejection (42_vertex_kick R306, R307) -/

theorem scissorBox_eq_boxOf (s : State) : scissorBox s.cfg.scissorBox (s.ctx s.actx) = boxOf s := by
  unfold scissorBox boxOf
  cases s.cfg.scissorBox <;> rfl

/-- The bounding box of the points lies to one side of the box, or no point lies inside the box (42_vertex_kick R307). -/
def MissesBox (b : Box) (xlo xhi ylo yhi : Int) : Prop :=
  b.x1 < b.x0 ∨ b.y1 < b.y0 ∨ xhi < b.x0 ∨ b.x1 < xlo ∨ yhi < b.y0 ∨ b.y1 < ylo

theorem missesBox_point (b : Box) (p : XY) :
    (b.empty || fullyOutside b [p]) = true ↔ MissesBox b p.sx p.sx p.sy p.sy := by
  simp [MissesBox, Box.empty, fullyOutside, or_assoc]

theorem missesBox_pair (b : Box) (p q : XY) : (b.empty || fullyOutside b [p, q]) = true ↔
    MissesBox b (min p.sx q.sx) (max p.sx q.sx) (min p.sy q.sy) (max p.sy q.sy) := by
  simp [MissesBox, Box.empty, fullyOutside, or_assoc]

theorem missesBox_triple (b : Box) (p q r : XY) : (b.empty || fullyOutside b [p, q, r]) = true ↔
    MissesBox b (min (min p.sx q.sx) r.sx) (max (max p.sx q.sx) r.sx) (min (min p.sy q.sy) r.sy) (max (max p.sy q.sy) r.sy) := by
  simp [MissesBox, Box.empty, fullyOutside, or_assoc]

theorem pairEqual_pair (p q : XY) : pairEqual [p, q] = true ↔ p = q := by simp [pairEqual]

theorem pairEqual_triple (p q r : XY) : pairEqual [p, q, r] = true ↔ p = q ∨ p = r ∨ q = r := by
  simp [pairEqual, or_assoc]

/-- The test of a topology under the default degenerate test (00_scope R7); a fan is tested up to its fourth vertex. -/
theorem reject_eq {s : State} (hd : s.cfg.degenerate = .pairEqual) {t : Topology} {m : Nat} (hi : t ≠ .invalid)
    (hm : t = .triangleFan → m ≤ 4) : reject s t m = ((boxOf s).empty || fullyOutside (boxOf s) (testPoints s.win t m) ||
      (t.cls.testsDegenerate && pairEqual (testPoints s.win t m))) := by
  have hfan : (t = .triangleFan && m > 4 : Bool) = false := by
    simpa using hm
  simp only [reject, if_neg hi, hfan, scissorBox_eq_boxOf, hd, degenerate, Bool.false_eq_true, if_false]

/-- Points and lines are never degenerate. -/
theorem reject_iff_outside {s : State} (hd : s.cfg.degenerate = .pairEqual) {t : Topology} {m : Nat} (hi : t ≠ .invalid)
    (hc : t.cls.testsDegenerate = false) :
    reject s t m = true ↔ ((boxOf s).empty || fullyOutside (boxOf s) (testPoints s.win t m)) = true := by
  rw [reject_eq hd hi (by rintro rfl; exact absurd hc (by decide)), hc, Bool.false_and, Bool.or_false]

theorem reject_iff_outside_or_equal {s : State} (hd : s.cfg.degenerate = .pairEqual) {t : Topology} {m : Nat}
    (hc : t.cls.testsDegenerate = true) (hm : t = .triangleFan → m ≤ 4) : reject s t m = true ↔
      ((boxOf s).empty || fullyOutside (boxOf s) (testPoints s.win t m)) = true ∨ pairEqual (testPoints s.win t m) = true := by
  rw [reject_eq hd (by rintro rfl; exact absurd hc (by decide)) hm, hc, Bool.true_and, Bool.or_eq_true_iff]

/-- Settles O30: which points a topology tests, and whether it can be degenerate. -/
theorem trivialRejection : Obligations.TrivialRejection := by
  refine ⟨rfl, rfl, fun s hd m => ⟨?point, fun t ht => ?line, ?sprite, fun t ht => ?triangle, fun hm => ?fan, fun hm => ?largeFan⟩⟩
  case point => exact (reject_iff_outside hd (by decide) (by decide)).trans (missesBox_point _ _)
  case line =>
    simp only [List.mem_cons, List.not_mem_nil, or_false] at ht
    obtain rfl | rfl := ht <;> exact (reject_iff_outside hd (by decide) (by decide)).trans (missesBox_pair _ _ _)
  case sprite => exact (reject_iff_outside_or_equal hd (by decide) (by simp)).trans (or_congr (missesBox_pair _ _ _) (pairEqual_pair _ _))
  case triangle =>
    simp only [List.mem_cons, List.not_mem_nil, or_false] at ht
    obtain rfl | rfl := ht <;>
      exact (reject_iff_outside_or_equal hd (by decide) (by simp)).trans (or_congr (missesBox_triple _ _ _ _) (pairEqual_triple _ _ _))
  case fan =>
    exact (reject_iff_outside_or_equal hd (by decide) fun _ => hm).trans (or_congr (missesBox_triple _ _ _ _) (pairEqual_triple _ _ _))
  case largeFan => simp [reject, hm]

end Sys2Proof.Machine
end

section
/-! PROOFS. The flush (43_flush_draw): the Draw of a pending group and the renderer's answer to it (R342, R343, R352, R354), and what is
carried forward (R344). -/

namespace Sys2Proof.Machine

/-! ## The renderer's answer (43_flush_draw R352) -/

theorem renderer_of_reply {s : State} {r : RendererReply} {rest : List RendererReply} (h : s.replies = r :: rest) :
    rendererVerdict s = r.ok ∧ rendererMem s = s.mem.storeAll r.writes := by
  rw [rendererVerdict, rendererMem, h]
  exact ⟨rfl, rfl⟩

/-- Without an answer the verdict is free and memory is a free image that lists no byte (log 6). -/
theorem renderer_of_no_reply {s : State} (h : s.replies = []) :
    rendererVerdict s = Config.rendererOk s.freeCount ∧ rendererMem s = ⟨[], s.freeCount⟩ := by
  rw [rendererVerdict, rendererMem, h]
  exact ⟨rfl, rfl⟩

theorem load_unlisted (epoch a : Nat) : (⟨[], epoch⟩ : Memory).load a = Config.freeMem epoch (a % Config.localMemBytes) := rfl

/-! ## The Draw (43_flush_draw R340, R343) -/

theorem drawEvents_eq (s : State) : drawEvents s = pendingDraw s :: failureEvents (rendererVerdict s) := rfl

theorem flush_vq_of_pending {s : State} (h : s.pending = true) : (flush s).vq = carryForward s.topology s.vq := by
  rw [flush_vq, if_pos h]

/-- Settles O36: the flush is the Draw and the renderer's step, and its queue the carry-forward. -/
theorem flushDrawsPendingGroup : Obligations.FlushDrawsPendingGroup := by
  refine fun s hp => ⟨?next, flush_ibuf s, ?head, fun r rest hr => renderer_of_reply hr, fun hr => ?free⟩
  case next => rw [flush_vq_of_pending hp, flush_of_pending hp, drawPending, rendererStep, drawEvents_eq]
  case head => rw [flush_vq_of_pending hp, carryForward]
  case free =>
    obtain ⟨hverdict, hmem⟩ := renderer_of_no_reply hr
    exact ⟨hverdict, fun a => by rw [hmem, load_unlisted]⟩

/-! ## The carry-forward (43_flush_draw R344) -/

theorem carried_of_empty {q : VertexQueue} (h : q.vbuf.length ≤ q.head) (t : Topology) : carried t q = [] := if_pos h

section
variable {q : VertexQueue} {v : Vertex} {rest : List Vertex} (h : q.vbuf.drop q.head = v :: rest)
include h

theorem length_of_live : q.vbuf.length = q.head + rest.length + 1 := by
  have hlength : q.vbuf.length - q.head = rest.length + 1 := by simpa using congrArg List.length h
  omega

theorem carried_of_live {t : Topology} (ht : t ≠ .triangleFan) : carried t q = v :: rest := by
  have hlength := length_of_live h
  rw [carried, if_neg (by omega), if_neg ht, h]

/-- The newest vertex is the last of the buffer. -/
theorem drop_newest_of_live {w : Vertex} (hw : rest.getLast? = some w) : q.vbuf.drop (q.vbuf.length - 1) = [w] := by
  have hlength := length_of_live h
  have hlast : q.vbuf.getLast? = some w := by
    have hdrop := List.getLast?_drop (l := q.vbuf) (i := q.head)
    rw [h, List.getLast?_cons, hw, if_neg (by omega)] at hdrop
    exact hdrop.symm
  obtain ⟨older, hbuf⟩ := List.getLast?_eq_some_iff.1 hlast
  simp [hbuf]

/-- A fan carries its anchor, and the newest vertex if that is another one. -/
theorem carried_fan : carried .triangleFan q = v :: rest.getLast?.toList := by
  have hlength := length_of_live h
  rw [carried, if_neg (by omega), if_pos rfl, h]
  cases hlast : rest.getLast? with
  | none =>
    obtain rfl := List.getLast?_eq_none_iff.1 hlast
    rw [if_neg (by simp [hlength])]
    rfl
  | some w =>
    have hpos := List.length_pos_of_mem (List.mem_of_getLast? hlast)
    rw [if_pos (by omega), drop_newest_of_live h hlast]
    rfl

end

/-- Settles O37: what is carried of an empty window, of a live one, and of a fan's. -/
theorem flushCarriesContinuation : Obligations.FlushCarriesContinuation := by
  intro s hp
  dsimp only
  rw [flush_vq_of_pending hp]
  refine ⟨rfl, rfl, rfl, fun hempty => carried_of_empty hempty _, fun v rest hlive => ⟨fun ht => carried_of_live hlive ht, ?anchor, ?fan⟩⟩
  case anchor =>
    rintro ht rfl
    rw [ht]
    exact carried_fan hlive
  case fan =>
    intro w ht hw
    rw [ht]
    exact (carried_fan hlive).trans (by rw [hw]; rfl)

end Sys2Proof.Machine
end

section
/-! PROOFS. What a Draw names (43_flush_draw R343, R355, 42_vertex_kick R313): a flush of a queue in order draws whole primitives over its
own vertices, and nothing else draws. The engine's `XferReach` leaves open what it emits, so its parts are gone through here once more for
their events. -/

namespace Sys2Proof.Machine

/-- A Draw whose indices name its own vertices and are whole primitives of a topology that is drawn (43_flush_draw R343, R355); an event
that is no Draw names nothing. -/
def Event.DrawInOrder : Event → Prop
  | .draw _ vs is cls => (∀ i ∈ is, i < vs.length) ∧ ∃ t : Topology, t.cls = cls ∧ cls ≠ .invalid ∧ is.length % t.verts = 0
  | _ => True

/-- The queue is as it is between kicks, so that a flush may draw it. -/
structure State.ReadyToDraw (s : State) : Prop where
  cursors : s.vq.CursorsOk
  between : s.vq.Between s.topology

/-- t's events are s's and new ones, whose Draws are in order. -/
def EventsInOrder (s t : State) : Prop := ∃ es, t.out = s.out ++ es ∧ ∀ e ∈ es, e.DrawInOrder

/-- From a queue that is ready to draw, t has new Draws in order only, and its queue is ready again. -/
def DrawsInOrder (s t : State) : Prop := s.ReadyToDraw → t.ReadyToDraw ∧ EventsInOrder s t

/-! ## Events in order -/

theorem EventsInOrder.append {s t : State} {e : Event} (ho : t.out = s.out ++ [e]) (he : e.DrawInOrder) : EventsInOrder s t :=
  ⟨[e], ho, by simpa using he⟩

theorem EventsInOrder.of_out {s t : State} (h : t.out = s.out) : EventsInOrder s t := ⟨[], by simpa using h, nofun⟩

theorem EventsInOrder.trans {s t u : State} (h : EventsInOrder s t) (h' : EventsInOrder t u) : EventsInOrder s u := by
  obtain ⟨es, ho, hes⟩ := h
  obtain ⟨fs, ho', hfs⟩ := h'
  exact ⟨es ++ fs, by rw [ho', ho, List.append_assoc], fun e he => (List.mem_append.1 he).elim (hes e) (hfs e)⟩

theorem EventsInOrder.congr {s t u : State} (h : EventsInOrder s t) (ho : u.out = t.out) : EventsInOrder s u := h.trans (.of_out ho)

theorem EventsInOrder.drawInOrder_of_new {s t : State} {e : Event} (h : EventsInOrder s t) (hin : e ∈ t.out) (hnew : e ∉ s.out) :
    e.DrawInOrder := by
  obtain ⟨es, ho, hes⟩ := h
  rw [ho] at hin
  exact hes e ((List.mem_append.1 hin).resolve_left hnew)

/-! ## The flush -/

theorem State.ReadyToDraw.congr {s t : State} (h : s.ReadyToDraw) (hq : t.vq = s.vq) (ht : t.topology = s.topology) : t.ReadyToDraw :=
  ⟨by rw [hq]; exact h.cursors, by rw [hq, ht]; exact h.between⟩

/-- Every index is below `next`, which is at most the number of vertices (42_vertex_kick R313). -/
theorem pendingDraw_inOrder {s : State} (h : s.ReadyToDraw) (hp : s.pending = true) : (pendingDraw s).DrawInOrder :=
  ⟨fun i hi => Nat.lt_of_lt_of_le (h.cursors.index_lt i hi) h.cursors.next_le, s.topology, rfl,
    h.between.cls_ne_invalid ((pending_iff s).1 hp), h.between.whole⟩

theorem failureEvents_inOrder (ok : Bool) : ∀ e ∈ failureEvents ok, e.DrawInOrder := by
  cases ok with
  | true => exact nofun
  | false => exact List.forall_mem_singleton.2 trivial

theorem flush_eventsInOrder {s : State} (h : s.ReadyToDraw) : EventsInOrder s (flush s) := by
  cases hp : s.pending with
  | false => exact .of_out (by rw [flush_of_not_pending hp])
  | true => exact ⟨_, flush_out_of_pending hp, List.forall_mem_cons.2 ⟨pendingDraw_inOrder h hp, failureEvents_inOrder _⟩⟩

theorem flush_readyToDraw {s : State} (h : s.ReadyToDraw) : (flush s).ReadyToDraw :=
  ⟨flush_cursorsOk h.cursors, by rw [flush_topology]; exact flush_between h.between⟩

theorem ite_flush_eventsInOrder (P : Prop) [Decidable P] {s : State} (h : s.ReadyToDraw) :
    EventsInOrder s (if P then flush s else s) := by
  split
  · exact flush_eventsInOrder h
  · exact .of_out rfl

/-! ## The transfer engine (44_transfer): it draws by its flushes only -/

theorem DrawsInOrder.flush (s : State) : DrawsInOrder s (flush s) := fun h => ⟨flush_readyToDraw h, flush_eventsInOrder h⟩

theorem DrawsInOrder.same {s t : State} (hq : t.vq = s.vq) (ht : t.topology = s.topology) (ho : t.out = s.out) : DrawsInOrder s t :=
  fun h => ⟨h.congr hq ht, .of_out ho⟩

theorem DrawsInOrder.refl (s : State) : DrawsInOrder s s := .same rfl rfl rfl

theorem DrawsInOrder.trans {s t u : State} (h : DrawsInOrder s t) (h' : DrawsInOrder t u) : DrawsInOrder s u := fun hs =>
  have ⟨ht, hst⟩ := h hs
  have ⟨hu, htu⟩ := h' ht
  ⟨hu, hst.trans htu⟩

/-- The states before and after may differ in what a Draw does not show. -/
theorem DrawsInOrder.before {s t u : State} (h : DrawsInOrder t u) (hq : t.vq = s.vq) (ht : t.topology = s.topology)
    (ho : t.out = s.out) : DrawsInOrder s u := (DrawsInOrder.same hq ht ho).trans h

theorem DrawsInOrder.after {s t u : State} (h : DrawsInOrder s t) (hq : u.vq = t.vq) (ht : u.topology = t.topology)
    (ho : u.out = t.out) : DrawsInOrder s u := h.trans (.same hq ht ho)

/-- An event that is no Draw. -/
theorem DrawsInOrder.emit {s t : State} (e : Event) (h : DrawsInOrder s t) (he : e.DrawInOrder) : DrawsInOrder s (emit e t) := fun hs =>
  have ⟨ht, hst⟩ := h hs
  ⟨ht.congr rfl rfl, hst.trans (.append rfl he)⟩

theorem commitPixel_draws (v : BitVec 32) (s : State) : DrawsInOrder s (commitPixel v s) := by
  unfold commitPixel
  split
  · exact .refl s
  · exact (DrawsInOrder.flush s).after rfl rfl rfl

theorem commitLoop_draws (k : Nat) (s : State) (wrote : Bool) : DrawsInOrder s (commitLoop k (s, wrote)).1 := by
  induction k generalizing s wrote with
  | zero => exact .refl s
  | succ k ih =>
    unfold commitLoop
    dsimp only
    split
    · exact (commitPixel_draws _ s).trans ((ih _ true).before rfl rfl rfl)
    · exact .refl s

theorem dropByte_draws (s : State) : DrawsInOrder s (dropByte s) := by
  unfold dropByte
  split
  · exact .refl s
  · exact .emit _ (.same rfl rfl rfl) trivial

theorem xferByte_draws (sw : State × Bool) (b : Byte) : DrawsInOrder sw.1 (xferByte sw b).1 := by
  unfold xferByte
  split
  · have hcommit := (commitLoop_draws (sw.1.xfer.pcount + 8) { sw.1 with xfer := sw.1.xfer.takeByte b } sw.2).before (s := sw.1)
      rfl rfl rfl
    dsimp only
    generalize commitLoop (sw.1.xfer.pcount + 8) ({ sw.1 with xfer := sw.1.xfer.takeByte b }, sw.2) = r at hcommit ⊢
    exact hcommit.after rfl rfl rfl
  · exact dropByte_draws sw.1

theorem xferBytes_draws (bs : List Byte) (sw : State × Bool) : DrawsInOrder sw.1 (bs.foldl xferByte sw).1 := by
  induction bs generalizing sw with
  | nil => exact .refl sw.1
  | cons b bs ih => exact (xferByte_draws sw b).trans (ih _)

theorem xferData_draws (bs : List Byte) (s : State) : DrawsInOrder s (xferData bs s) := by
  have hbytes := xferBytes_draws bs (s, false)
  unfold xferData
  dsimp only
  split
  · exact .emit _ hbytes trivial
  · exact hbytes

theorem move_draws (s : State) : DrawsInOrder s (move s) := by
  have hsource := (DrawsInOrder.flush s).emit (.invalidateLocalMem s.xfer.blit s.xfer.srcRect) trivial
  unfold move
  exact .emit _ (hsource.after rfl rfl rfl) trivial

theorem transferStart_draws (x : BitVec 2) (s : State) : DrawsInOrder s (transferStart x s) := by
  unfold transferStart
  dsimp only
  split
  · exact .same rfl rfl rfl
  · exact .emit _ (.same rfl rfl rfl) trivial
  · exact (move_draws _).before rfl rfl rfl
  · exact .same rfl rfl rfl

theorem fetchPixel_draws (s : State) : DrawsInOrder s (fetchPixel s) := (DrawsInOrder.flush s).after rfl rfl rfl

theorem fillLoop_draws (k : Nat) (s : State) : DrawsInOrder s (fillLoop k s) := by
  induction k generalizing s with
  | zero => exact .refl s
  | succ k ih =>
    unfold fillLoop
    split
    · split
      · exact (fetchPixel_draws s).trans (ih _)
      · exact (ih _).before rfl rfl rfl
    · exact .refl s

theorem readByte_draws (s : State) : DrawsInOrder s (readByte s).1 := by
  unfold readByte
  split
  · exact (fillLoop_draws 8 s).after rfl rfl rfl
  · exact .same rfl rfl rfl

theorem readBytes_draws (n : Nat) (s : State) : DrawsInOrder s (readBytes n s).1 := by
  induction n generalizing s with
  | zero => exact .refl s
  | succ n ih => exact (readByte_draws s).trans (ih _)

theorem readFIFO_draws (n : Nat) (s : State) : DrawsInOrder s (readFIFO n s) := .emit _ (readBytes_draws (16 * n) s) trivial

/-! ## The instructions -/

/-- A hazard flush draws the queue right after its accept, which is in order. -/
theorem kick_eventsInOrder (x y : BitVec 16) (z : BitVec 32) (skip : Bool) {s : State} (h : s.ReadyToDraw) :
    EventsInOrder s (kick x y z skip s) := by
  have hk := kick_cases x y z skip s
  generalize kick x y z skip s = t at hk ⊢
  cases hk with
  | hazard _ hcomplete hinside =>
    obtain ⟨-, -, hqueue⟩ := append_ok h.cursors h.between ⟨x, y, z, s.vacc⟩
    obtain ⟨hcursors, hbetween⟩ := accept_ok (hqueue hcomplete) (accept_not_invalid hinside)
    exact flush_eventsInOrder (s := { pushVertex x y z s with vq := (pushVertex x y z s).vq.accept s.topology }) ⟨hcursors, hbetween⟩
  | _ => exact .of_out rfl

theorem applyPrim_eventsInOrder (v : BitVec 11) {s : State} (h : s.ReadyToDraw) : EventsInOrder s (applyPrim v s) :=
  (ite_flush_eventsInOrder (primFlushes v s = true) h).congr rfl

theorem tagStart_eventsInOrder (flg : BitVec 2) (f : TagFields) {s : State} (h : s.ReadyToDraw) :
    EventsInOrder s (tagStart flg f s) := by
  have hpath : EventsInOrder s (s.setPath s.feed.path ⟨encodeTag flg f, f.nloop, 0#4⟩) := .of_out (setPath_out ..)
  have hready : State.ReadyToDraw { s.setPath s.feed.path ⟨encodeTag flg f, f.nloop, 0#4⟩ with qint := qintOne } :=
    h.congr (setPath_vq ..) (setPath_topology ..)
  unfold tagStart
  dsimp only
  split
  · exact hpath
  · split
    · exact (hpath.congr rfl).trans (applyPrim_eventsInOrder f.prim hready)
    · exact hpath

theorem imageQword_eventsInOrder (q : Qword) {s : State} (h : s.ReadyToDraw) : EventsInOrder s (imageQword q s) := by
  have hdata := (xferData_draws (bytesOf 16 q) s h).2
  unfold imageQword
  generalize xferData (bytesOf 16 q) s = t at hdata
  exact hdata.congr (setPath_out ..)

theorem trxdirWrite_eventsInOrder (v : Word64) {s : State} (h : s.ReadyToDraw) : EventsInOrder s (trxdirWrite v s) :=
  have hstored : DrawsInOrder (flush s) (setEnv .trxdir (EnvReg.trxdir.stored v) (flush s)) :=
    .same rfl (setEnv_topology (by decide) _ _) rfl
  (((DrawsInOrder.flush s).trans hstored).trans (transferStart_draws _ _) h).2

/-- Every effect of an instruction draws what is in order. -/
theorem Effect.eventsInOrder {s t : State} (h : Effect s t) (hs : s.ReadyToDraw) : EventsInOrder s t := by
  cases h with
  | env r v => rw [caWriteEnv_eq]; exact (ite_flush_eventsInOrder _ hs).congr (setEnv_out ..)
  | ctx r c v => rw [caWriteCtx_eq]; exact (ite_flush_eventsInOrder _ hs).congr (setCtxReg_out ..)
  | prmode v => rw [prmodeWrite_eq]; exact (ite_flush_eventsInOrder _ hs).congr (setEnv_out ..)
  | prim v => exact applyPrim_eventsInOrder v hs
  | kickF x y z f skip => exact kick_eventsInOrder x y z skip (s := fogSet f s) (hs.congr rfl rfl)
  | kick x y z skip => exact kick_eventsInOrder x y z skip hs
  | trxdir v => exact trxdirWrite_eventsInOrder v hs
  | data bs => exact (xferData_draws bs s hs).2
  | tag flg f => exact tagStart_eventsInOrder flg f hs
  | image q => exact imageQword_eventsInOrder q hs
  | none | accumulator | reserved => exact .of_out rfl

/-! ## The step -/

/-- Of the host's calls, FlushRequest and ReadFIFO draw (70_reset_and_hazards R450). -/
theorem hostCall_eventsInOrder {c : HostCall} (hc : c ≠ .powerOn) {s : State} (h : s.ReadyToDraw) : EventsInOrder s (hostCall c s) := by
  cases c with
  | powerOn => exact absurd rfl hc
  | flushRequest => exact flush_eventsInOrder h
  | readFIFO n => exact (readFIFO_draws n s h).2
  | transfer p bytes size =>
    simp only [hostCall, startTransfer]
    split
    · exact .of_out rfl
    · split <;> exact .of_out rfl
  | defrost blob =>
    simp only [hostCall, defrost]
    split <;> exact .of_out rfl
  | softReset | reconfigure | freeze => exact .of_out rfl

theorem SameButParser.out {s t : State} (h : SameButParser s t) : t.out = s.out := by rw [h]

/-- A step appends events in order, or is a PowerOn and leaves no event. -/
theorem step_eventsInOrder {s t : State} (h : step s = .next t) (hs : s.ReadyToDraw) : EventsInOrder s t ∨ t.out = [] := by
  cases step_cases h with
  | stuckPower rest => exact .inr rfl
  | stuckDrop c rest => exact .inl (.of_out rfl)
  | unit u q rest _ _ _ he => exact .inl ((he.eventsInOrder hs).congr (finishUnit_parser _ u).out)
  | call c rest =>
    by_cases hc : c = .powerOn
    · subst hc; exact .inr rfl
    · exact .inl (hostCall_eventsInOrder hc (s := { s with calls := rest }) (hs.congr rfl rfl))
  | idle => exact .inl (.of_out rfl)

/-- Settles O57: a new Draw is in order, and its class fixes how many indices a primitive has (42_vertex_kick R300). -/
theorem drawsNameTheirVertices : Obligations.DrawsNameTheirVertices := by
  intro s t hq hf h snap vs is cls hin hnew
  obtain hadds | hnone := step_eventsInOrder h ⟨hq.cursors, hq.between hf⟩
  · obtain ⟨hindex, topology, rfl, hdrawn, hwhole⟩ := hadds.drawInOrder_of_new hin hnew
    exact ⟨hindex, hdrawn, by cases topology <;> exact hwhole⟩
  · rw [hnone] at hin
    exact absurd hin List.not_mem_nil

end Sys2Proof.Machine
end

section
/-! PROOFS. Starting a transfer, and the Move (44_transfer R361 to R364, R374, R376, R381). -/

namespace Sys2Proof.Machine

/-! ## Formats (30_encoding R165, 44_transfer R361) -/

theorem trbpp_eq_pixelBits : ∀ psm : BitVec 6, trbpp psm = pixelBits psm := by decide

theorem listedPsm_eq_knownPsm : ∀ psm : BitVec 6, listedPsm psm = knownPsm psm := by decide

@[simp] theorem pixelBits_knownPsm : ∀ psm : BitVec 6, pixelBits (knownPsm psm) = pixelBits psm := by decide

theorem moveConvert_eq_converted (f : Formula) (sp dp : BitVec 6) (v : BitVec 32) :
    moveConvert f (knownPsm sp) (knownPsm dp) v = converted f sp dp v := by
  cases f <;> simp [moveConvert, converted, trbpp_eq_pixelBits, listedPsm_eq_knownPsm]

/-- No parameter converts within one format (log 17). -/
theorem moveConvert_same (f : Formula) (psm : BitVec 6) (v : BitVec 32) : moveConvert f psm psm v = v := by
  cases f <;> exact if_pos rfl

/-! ## TRXDIR (44_transfer R362, R365) -/

theorem xdir_stored (v : Word64) : xdir (EnvReg.trxdir.stored v) = bits v 0 2 := by
  refine BitVec.eq_of_getLsbD_eq fun i hi => ?_
  have hmask : ∀ i < 2, EnvReg.trxdir.mask.getLsbD i = true := by decide
  simp [xdir, bits, EnvReg.stored, hi, hmask i hi]

/-- The state a transfer starts from: the pending group is drawn and XDIR stored. -/
def trxdirStored (v : Word64) (s : State) : State :=
  { flush s with env := { (flush s).env with trxdir := v &&& 3#64 } }

theorem exec_trxdir {v : Word64} {x : BitVec 2} (h : bits v 0 2 = x) (s : State) :
    exec (.adTrxdir v) s = .next (transferStart x (trxdirStored v s)) := by
  have hexec : exec (.adTrxdir v) s = .next (transferStart (xdir (EnvReg.trxdir.stored v)) (trxdirStored v s)) := rfl
  rw [hexec, xdir_stored, h]

/-- The latching of a TRXDIR write, in the spec's words. -/
theorem latch_eq_idleXfer (v : Word64) (s : State) :
    (trxdirStored v s).xfer.latch (trxdirStored v s).env = idleXfer s := by
  simp [trxdirStored, Xfer.latch, idleXfer, armedXfer, rrw, rrh]

theorem arm_eq_armedXfer (mode : XferMode) (psm : BitVec 6) (s : State) :
    (idleXfer s).arm mode psm s.cfg.stagingCap = armedXfer s mode (trbpp psm) := by
  simp [Xfer.arm, idleXfer, armedXfer, totalBytes, trbpp_eq_pixelBits]

/-- Settles O39: the four codes of XDIR are the four cases of `transferStart`. -/
theorem trxdirStartsTransfer : Obligations.TrxdirStartsTransfer := by
  intro v s
  have hcap : (trxdirStored v s).cfg.stagingCap = s.cfg.stagingCap := by simp [trxdirStored]
  refine ⟨fun h => ?write, fun h => ?read, fun h => ?move, fun h => ?idle⟩ <;>
    simp only [exec_trxdir h, transferStart, latch_eq_idleXfer, hcap, arm_eq_armedXfer] <;> rfl

/-! ## The Move (44_transfer R374, R376) -/

theorem movePixel_eq_copyPixel (f : Formula) (x : Xfer) (m : Memory) (ij : Nat × Nat) :
    movePixel f x m ij = copyPixel f x.blit x.pos m ij.1 ij.2 := by
  simp only [movePixel, copyPixel, moveConvert_eq_converted, listedPsm_eq_knownPsm, rectX, rectY]

theorem movedMem_eq_copyRows (f : Formula) (x : Xfer) (m : Memory) :
    movedMem f x m = copyRows f x.blit x.pos x.w x.h m := by
  simp only [movedMem, movePixels, List.foldl_flatMap, List.foldl_map, movePixel_eq_copyPixel]
  rfl

theorem move_of_not_pending {s : State} (h : s.pending = false) : move s = { s with
    mem := movedMem s.cfg.moveConvert s.xfer s.mem
    out := s.out ++ [sourceHook s.xfer, destHook s.xfer] } := by
  simp only [move, flush_of_not_pending h, emit, List.append_assoc]
  rfl

/-- The state after a TRXDIR write that runs the Move. -/
theorem exec_move {v : Word64} (h : bits v 0 2 = 2#2) (s : State) :
    exec (.adTrxdir v) s = .next { trxdirStored v s with
      xfer := idleXfer s
      mem := movedMem s.cfg.moveConvert (idleXfer s) (flush s).mem
      out := (flush s).out ++ [sourceHook (idleXfer s), destHook (idleXfer s)] } := by
  have hmove := move_of_not_pending (s := { trxdirStored v s with xfer := idleXfer s }) (flush_not_pending s)
  have hcfg : (trxdirStored v s).cfg = s.cfg := flush_cfg s
  rw [exec_trxdir h]
  simp only [transferStart, latch_eq_idleXfer]
  rw [hmove, hcfg]
  rfl

/-- Settles O40: the model's fold over the pixels of the rectangle is the spec's loop over its rows. -/
theorem moveCopiesRectangle : Obligations.MoveCopiesRectangle := by
  refine ⟨rfl, fun v s h => ?_⟩
  rw [exec_move h, movedMem_eq_copyRows]
  rfl

/-- A pixel that is moved onto itself keeps every byte. -/
theorem load_movePixel_same (f : Formula) {x : Xfer} (hbp : sbp x.blit = dbp x.blit) (hbw : sbw x.blit = dbw x.blit)
    (hpsm : spsm x.blit = dpsm x.blit) (hx : ssax x.pos = dsax x.pos) (hy : ssay x.pos = dsay x.pos) (m : Memory) (ij : Nat × Nat)
    (a : Nat) : (movePixel f x m ij).load a = m.load a := by
  rw [movePixel, hbp, hbw, hpsm, hx, hy, moveConvert_same, load_writePixel_readPixel]

/-- Settles O41: each pixel of the Move is moved onto itself. -/
theorem moveOntoItself : Obligations.MoveOntoItself := by
  intro v s h hp b p hbp hbw hpsm hx hy
  have hload : ∀ a, (movedMem s.cfg.moveConvert (idleXfer s) s.mem).load a = s.mem.load a := fun a =>
    load_foldl _ a _ (fun m ij _ => load_movePixel_same _ (x := idleXfer s) hbp hbw hpsm hx hy m ij a) s.mem
  exact ⟨_, exec_move h s, fun a => by dsimp only; rw [flush_of_not_pending hp, hload]⟩

end Sys2Proof.Machine
end

section
/-! PROOFS. Transfer data (44_transfer R366, R372, R373): what no Write takes is dropped, and data in two pieces has the result of the
whole. -/

namespace Sys2Proof.Machine

/-! ## The instructions that carry data (40_gif_decoder R177, R178, 41_register_dispatch R280) -/

theorem exec_hwreg (v : Word64) (s : State) : exec (.adHwreg v) s = .next (xferData (bytesOf 8 v) s) := rfl

/-- Transfer data leaves the paths alone, so the loop counted after it is that of the path as it was. -/
theorem imageQword_eq (q : Qword) (s : State) :
    imageQword q s = (xferData (bytesOf 16 q) s).setPath s.feed.path { s.cur with nloop := s.cur.nloop - 1 } := by
  have hreach := xferData_reach (bytesOf 16 q) s
  have hpath : ∀ p, (xferData (bytesOf 16 q) s).path p = s.path p := path_eq hreach.path0 hreach.path1 hreach.path2 hreach.path3
  simp only [imageQword, hreach.feed, hpath, State.cur]
  rfl

theorem exec_imageData {q : Qword} {i : Instr} (h : i ∈ [Instr.giftagImage (.data q), .giftagImage2 (.data q)]) (s : State) :
    exec i s = .next ((xferData (bytesOf 16 q) s).setPath s.feed.path { s.cur with nloop := s.cur.nloop - 1 }) := by
  rw [← imageQword_eq]
  simp only [List.mem_cons, List.not_mem_nil, or_false] at h
  obtain rfl | rfl := h <;> rfl

theorem bytesOf_length {n : Nat} (k : Nat) (v : BitVec n) : (bytesOf k v).length = k := by simp [bytesOf]

/-! ## Dropped bytes (44_transfer R372) -/

theorem takesByte_iff (x : Xfer) : x.takesByte = true ↔ x.mode = .write ∧ x.done < x.total := by simp [Xfer.takesByte]

theorem takesByte_eq_false_iff (x : Xfer) : x.takesByte = false ↔ x.mode ≠ .write ∨ x.total ≤ x.done := by
  rw [← Bool.not_eq_true, takesByte_iff, not_and_or, Nat.not_lt]

theorem dropByte_takesByte (s : State) : (dropByte s).xfer.takesByte = s.xfer.takesByte := by
  unfold dropByte; split <;> rfl

theorem dropByte_overflow (s : State) : (dropByte s).xfer.overflow = true := by
  unfold dropByte
  split
  · assumption
  · rfl

/-- Only the first dropped byte has an effect. -/
theorem dropByte_idem (s : State) : dropByte (dropByte s) = dropByte s := by
  rw [dropByte, if_pos (dropByte_overflow s)]

theorem xferBytes_dropped {s : State} (h : s.xfer.takesByte = false) (wrote : Bool) (bs : List Byte) :
    bs.foldl xferByte (s, wrote) = (if bs = [] then s else dropByte s, wrote) := by
  induction bs generalizing s with
  | nil => rfl
  | cons b bs ih =>
    have hbyte : xferByte (s, wrote) b = (dropByte s, wrote) := by simp [xferByte, h]
    rw [List.foldl_cons, hbyte, ih (by rw [dropByte_takesByte, h]), dropByte_idem, ite_self, if_neg (List.cons_ne_nil _ _)]

theorem xferData_dropped {s : State} (h : s.xfer.takesByte = false) {bs : List Byte} (hb : bs ≠ []) : xferData bs s = dropByte s := by
  simp [xferData, xferBytes_dropped h, hb]

/-- Settles O44: without a Write to take them the bytes are all dropped. -/
theorem unusableDataDropped : Obligations.UnusableDataDropped := by
  intro s h
  have hdrop : ∀ {bs : List Byte}, bs ≠ [] → xferData bs s = dropByte s := xferData_dropped ((takesByte_eq_false_iff s.xfer).2 h)
  have hbytes : ∀ {n : Nat} (k : Nat) (v : BitVec n), bytesOf (k + 1) v ≠ [] := fun k v => by simp [bytesOf]
  refine ⟨fun v => ?_, fun q i hi => ?_⟩
  · rw [exec_hwreg, hdrop (hbytes 7 v)]; rfl
  · rw [exec_imageData hi, hdrop (hbytes 15 q)]; rfl

/-! ## Data in two pieces (44_transfer R373) -/

/-- t is s but for events h, of which the one may have emitted more than the other. -/
inductive SameButHooks (h : Event) (s : State) : State → Prop where
  | events (es : List Event) (he : es.filter (fun e => e ≠ h) = s.out.filter (fun e => e ≠ h)) : SameButHooks h s { s with out := es }

section
variable {h : Event} {s t : State}

theorem SameButHooks.refl (h : Event) (s : State) : SameButHooks h s s := .events s.out rfl

theorem SameButHooks.xfer (hs : SameButHooks h s t) : t.xfer = s.xfer := by cases hs; rfl
theorem SameButHooks.mem (hs : SameButHooks h s t) : t.mem = s.mem := by cases hs; rfl
theorem SameButHooks.vq (hs : SameButHooks h s t) : t.vq = s.vq := by cases hs; rfl
theorem SameButHooks.out (hs : SameButHooks h s t) : t.out.filter (fun e => e ≠ h) = s.out.filter (fun e => e ≠ h) := by
  cases hs; assumption

theorem SameButHooks.hook (hs : SameButHooks h s t) : SameButHooks h s (emit h t) := by
  obtain ⟨es, he⟩ := hs
  exact .events (es ++ [h]) (by simpa using he)

theorem SameButHooks.emit (hs : SameButHooks h s t) (e : Event) : SameButHooks h (emit e s) (emit e t) := by
  obtain ⟨es, he⟩ := hs
  exact .events (es ++ [e]) (by rw [emit_out, List.filter_append, List.filter_append, he])

theorem SameButHooks.withXfer (hs : SameButHooks h s t) (x : Xfer) : SameButHooks h { s with xfer := x } { t with xfer := x } := by
  obtain ⟨es, he⟩ := hs
  exact .events (s := { s with xfer := x }) es he

theorem SameButHooks.withEngine (hs : SameButHooks h s t) (m : Memory) (x : Xfer) :
    SameButHooks h { s with mem := m, xfer := x } { t with mem := m, xfer := x } := by
  obtain ⟨es, he⟩ := hs
  exact .events (s := { s with mem := m, xfer := x }) es he

/-- A flush does not look at the events before it. -/
theorem SameButHooks.flush (hs : SameButHooks h s t) : SameButHooks h (flush s) (flush t) := by
  obtain ⟨es, he⟩ := hs
  have hflush : Machine.flush { s with out := es } =
      { Machine.flush s with out := es ++ if s.pending then drawEvents s else [] } := by
    by_cases hp : s.pending = true
    · rw [flush_of_pending hp, if_pos hp]; exact flush_of_pending (s := { s with out := es }) hp
    · have hp := Bool.eq_false_iff.mpr hp
      rw [flush_of_not_pending hp, flush_of_not_pending (s := { s with out := es }) hp]
      simp [hp]
  rw [hflush]
  exact .events _ (by rw [flush_out, List.filter_append, List.filter_append, he])

theorem SameButHooks.commitPixel (hs : SameButHooks h s t) (v : BitVec 32) :
    SameButHooks h (commitPixel v s) (commitPixel v t) := by
  unfold Machine.commitPixel
  rw [hs.xfer, hs.flush.mem]
  split
  · exact hs
  · exact hs.flush.withEngine _ _

theorem SameButHooks.commitLoop (hs : SameButHooks h s t) (k : Nat) (w w' : Bool) :
    SameButHooks h (commitLoop k (s, w)).1 (commitLoop k (t, w')).1 := by
  induction k generalizing s t w w' with
  | zero => exact hs
  | succ k ih =>
    unfold Machine.commitLoop
    rw [hs.xfer]
    split
    · dsimp only
      rw [(hs.commitPixel _).xfer]
      exact ih ((hs.commitPixel _).withXfer _) true true
    · exact hs

theorem SameButHooks.dropByte (hs : SameButHooks h s t) : SameButHooks h (dropByte s) (dropByte t) := by
  unfold Machine.dropByte
  rw [hs.xfer]
  split
  · exact hs
  · exact (hs.withXfer _).emit _

theorem SameButHooks.xferByte (hs : SameButHooks h s t) (w w' : Bool) (b : Byte) :
    SameButHooks h (xferByte (s, w) b).1 (xferByte (t, w') b).1 := by
  unfold Machine.xferByte
  dsimp only
  rw [hs.xfer]
  split
  · have hloop := (hs.withXfer (s.xfer.takeByte b)).commitLoop (s.xfer.pcount + 8) w w'
    rw [hloop.xfer]
    exact hloop.withXfer _
  · exact hs.dropByte

theorem SameButHooks.xferBytes (hs : SameButHooks h s t) (w w' : Bool) (bs : List Byte) :
    SameButHooks h (bs.foldl Machine.xferByte (s, w)).1 (bs.foldl Machine.xferByte (t, w')).1 := by
  induction bs generalizing s t w w' with
  | nil => exact hs
  | cons b bs ih => exact ih (hs.xferByte w w' b) _ _

/-- Transfer data is its bytes, and hooks. -/
theorem SameButHooks.xferData (hs : SameButHooks h s t) (hh : destHook t.xfer = h) (w : Bool) (bs : List Byte) :
    SameButHooks h (bs.foldl Machine.xferByte (s, w)).1 (xferData bs t) := by
  have hbytes := hs.xferBytes w false bs
  unfold Machine.xferData
  dsimp only
  split
  · subst hh; exact hbytes.hook
  · exact hbytes

end

/-! Transfer data keeps the destination rectangle. -/

theorem destHook_finishIfDone (x : Xfer) : destHook x.finishIfDone = destHook x := by unfold Xfer.finishIfDone; split <;> rfl

theorem destHook_commitPixel (v : BitVec 32) (s : State) : destHook (commitPixel v s).xfer = destHook s.xfer := by
  rw [commitPixel_xfer]
  split
  · rfl
  · unfold Xfer.advance; split <;> rfl

theorem destHook_commitLoop (k : Nat) (s : State) (w : Bool) : destHook (commitLoop k (s, w)).1.xfer = destHook s.xfer := by
  induction k generalizing s w with
  | zero => rfl
  | succ k ih =>
    unfold commitLoop
    split
    · exact (ih _ true).trans (destHook_commitPixel _ s)
    · rfl

theorem destHook_xferByte (sw : State × Bool) (b : Byte) : destHook (xferByte sw b).1.xfer = destHook sw.1.xfer := by
  unfold xferByte
  split
  · exact (destHook_finishIfDone _).trans (destHook_commitLoop _ _ _)
  · unfold dropByte; split <;> rfl

theorem destHook_xferBytes (bs : List Byte) (sw : State × Bool) : destHook (bs.foldl xferByte sw).1.xfer = destHook sw.1.xfer := by
  induction bs generalizing sw with
  | nil => rfl
  | cons b bs ih => exact (ih _).trans (destHook_xferByte sw b)

/-- The bytes of a qword are those of its low half and then those of its high half (20_memory R81). -/
theorem bytesOf_qword (q : Qword) : bytesOf 16 q = bytesOf 8 (bits q 0 64) ++ bytesOf 8 (bits q 64 64) := by
  have hbits : ∀ lo, ∀ i < 8, bits (bits q lo 64) (8 * i) 8 = bits q (lo + 8 * i) 8 := by
    intro lo i hi
    refine BitVec.eq_of_getLsbD_eq fun j hj => ?_
    simp [bits, hj, show 8 * i + j < 64 by omega, Nat.add_assoc]
  have hrange : List.range 16 = List.range 8 ++ (List.range 8).map (8 + ·) := by decide
  simp only [bytesOf, hrange, List.map_append, List.map_map]
  congr 1 <;> refine List.map_congr_left fun i hi => ?_ <;> rw [hbits _ i (List.mem_range.mp hi)]
  · rw [Nat.zero_add]
  · rw [Function.comp_apply, Nat.mul_add]

/-- Settles O45: both ways run the same sixteen bytes, and differ in the hooks between and after them. -/
theorem splitDataSameResult : Obligations.SplitDataSameResult := by
  intro q s a b c ha hb hc
  rw [exec_imageData (List.mem_cons_self ..)] at ha
  rw [exec_hwreg] at hb hc
  obtain rfl := Host.Outcome.next.inj ha
  obtain rfl := Host.Outcome.next.inj hb
  obtain rfl := Host.Outcome.next.inj hc
  have hlow := (SameButHooks.refl (destHook s.xfer) s).xferData rfl false (bytesOf 8 (bits q 0 64))
  have hhook : destHook (xferData (bytesOf 8 (bits q 0 64)) s).xfer = destHook s.xfer := by
    rw [hlow.xfer, destHook_xferBytes]
  have hsplit := hlow.xferData hhook ((bytesOf 8 (bits q 0 64)).foldl xferByte (s, false)).2 (bytesOf 8 (bits q 64 64))
  rw [Prod.mk.eta, ← List.foldl_append, ← bytesOf_qword] at hsplit
  have hwhole := (SameButHooks.refl (destHook s.xfer) s).xferData rfl false (bytesOf 16 q)
  simp only [setPath_mem, setPath_xfer, setPath_vq, setPath_out]
  exact ⟨hwhole.mem.trans hsplit.mem.symm, hwhole.xfer.trans hsplit.xfer.symm, hwhole.vq.trans hsplit.vq.symm,
    hwhole.out.trans hsplit.out.symm⟩

end Sys2Proof.Machine
end

section
/-! PROOFS. Pixels in local memory (20_memory R86 to R89): where they lie, and which bits an access gives and replaces. -/

namespace Sys2Proof.Machine

/-! ## Places (20_memory R86, R87) -/

theorem transferFields : TransferFields :=
  ⟨fun _ => ⟨rfl, rfl, rfl, rfl, rfl, rfl⟩, fun _ => ⟨rfl, rfl, rfl, rfl, rfl, rfl⟩⟩

theorem word32_eq_wordAt (bp bw x y : Nat) : word32 bp bw x y = wordAt bp bw x y := by
  have hblock : ∀ r < 4, ∀ c < 8, block32 r c = block32Table.getD (r * 8 + c) 0 := by decide
  have hcolumn : ∀ r < 8, ∀ c < 8, column32 r c = column32Table.getD (r * 8 + c) 0 := by decide
  simp only [word32, wordAt, hblock _ (Nat.mod_lt (y / 8) (by decide : 0 < 4)) _ (Nat.mod_lt (x / 8) (by decide : 0 < 8)),
    hcolumn _ (Nat.mod_lt y (by decide : 0 < 8)) _ (Nat.mod_lt x (by decide : 0 < 8))]

theorem pixelLoc_of_open {psm : BitVec 6} (h : psm ∉ placedFormats.map Prod.fst) (bp bw x y : Nat) :
    pixelLoc psm bp bw x y = openPixelLoc psm bp bw (x % 2048) (y % 2048) := by
  unfold pixelLoc
  dsimp only
  split
  case h_6 => rfl
  all_goals exact absurd (by decide) h

theorem pixelPlaces : PixelPlaces := by
  refine ⟨fun f hf bp bw x y => ?_, fun psm hopen bp bw x y x' y' haddr hlo => ?_, fun psm bp bw x y => ?_⟩
  · simp only [placedFormats, List.mem_cons, List.not_mem_nil, or_false] at hf
    rw [← word32_eq_wordAt]
    obtain rfl | rfl | rfl | rfl | rfl := hf <;> rfl
  · rw [pixelLoc_of_open hopen, pixelLoc_of_open hopen] at haddr hlo
    exact openPixelLoc_injective haddr hlo
  · rw [trbpp_eq_pixelBits]
    exact pixelLoc_fits psm bp bw x y

/-! ## Accesses, bit by bit (20_memory R88, R89) -/

theorem holdsPixelBit_iff (loc : PixelLoc) (i a j : Nat) : holdsPixelBit loc i a j ↔
    a % Config.localMemBytes = (loc.addr + (loc.lo + i) / 8) % Config.localMemBytes ∧ j = (loc.lo + i) % 8 := by
  unfold Config.localMemBytes holdsPixelBit
  omega

/-- Addresses count modulo the size of local memory. -/
theorem load_congr (m : Memory) {a b : Nat} (h : a % Config.localMemBytes = b % Config.localMemBytes) : m.load a = m.load b := by
  rw [← load_mod m a, h, load_mod]

theorem pixelAccess : PixelAccess := by
  intro m psm bp bw x y v loc n w
  have hn : n = pixelBits psm := trbpp_eq_pixelBits psm
  have hle : pixelBits psm ≤ 32 := pixelBits_le psm
  have hfits : loc.lo + pixelBits psm ≤ 8 * loc.bytes := pixelLoc_fits psm bp bw x y
  have hread : ∀ i, (readPixel m psm bp bw x y).getLsbD i = (decide (i < n) &&
      (m.load (loc.addr + (loc.lo + i) / 8)).getLsbD ((loc.lo + i) % 8)) := hn ▸ fun i => readField_getLsbD m loc hle hfits
  refine ⟨fun i a j hi hbit => ?_, fun i hi => ?_, fun i a j hi hbit => ?_, fun a j hout => ?_, ?_⟩
  · obtain ⟨ha, rfl⟩ := (holdsPixelBit_iff loc i a j).1 hbit
    rw [hread, load_congr m ha, decide_eq_true hi, Bool.true_and]
  · rw [hread, decide_eq_false (Nat.not_lt.mpr hi), Bool.false_and]
  · obtain ⟨ha, rfl⟩ := (holdsPixelBit_iff loc i a j).1 hbit
    rw [load_congr w ha]
    exact writeField_getLsbD_inside m loc v hle (hn ▸ hi) hfits
  · exact writeField_getLsbD_outside m loc _ v fun i hi ha hj => hout i (hn ▸ hi) ((holdsPixelBit_iff loc i a j).2 ⟨ha, hj⟩)
  · rw [hn]
    exact readPixel_writePixel m psm bp bw x y v

end Sys2Proof.Machine
end

section
/-! PROOFS. Data of a Write (44_transfer R364, R366, R367, R369, R372, R373): the engine with some bytes taken and some pixels complete, as
a function of both numbers, and what a pixel, a byte and a run of bytes do to it. -/

namespace Sys2Proof.Machine

/-! ## The cursor (44_transfer R364) -/

/-- The engine with its cursor on pixel p of the rectangle, in raster order. -/
def Xfer.atPixel (x : Xfer) (p : Nat) : Xfer := { x with cx := p % x.w, cy := p / x.w }

/-- The pixels of the rectangle from the cursor on. -/
def Xfer.room (x : Xfer) : Nat := x.w * x.h - cursorPixel x

theorem atPixel_cursorPixel {x : Xfer} (h : x.cx < x.w) : x.atPixel (cursorPixel x) = x := by
  have hw : 0 < x.w := by omega
  simp [Xfer.atPixel, cursorPixel, Nat.mul_comm x.cy, Nat.mod_eq_of_lt h, Nat.mul_add_div hw, Nat.div_eq_of_lt h]

theorem atPixel_advance {x : Xfer} (hw : 0 < x.w) (p : Nat) : (x.atPixel p).advance = x.atPixel (p + 1) := by
  have hlt := Nat.mod_lt p hw
  have hp := Nat.mod_add_div p x.w
  unfold Xfer.advance Xfer.atPixel
  dsimp only
  split
  · next hend =>
    obtain ⟨hdiv, hmod⟩ := (Nat.div_mod_unique (a := p + 1) (c := 0) (d := p / x.w + 1) hw).2 ⟨by rw [Nat.mul_add]; omega, hw⟩
    rw [hdiv, hmod]
  · obtain ⟨hdiv, hmod⟩ := (Nat.div_mod_unique (a := p + 1) (c := p % x.w + 1) (d := p / x.w) hw).2 ⟨by omega, by omega⟩
    rw [hdiv, hmod]

/-- The cursor is inside the rectangle for as many pixels as there is room for. -/
theorem cursorOn_inside {x : Xfer} (hw : 0 < x.w) (k : Nat) : (cursorOn x k).cy < x.h ↔ k < x.room := by
  unfold cursorOn Xfer.room
  dsimp only
  rw [Nat.div_lt_iff_lt_mul hw, Nat.mul_comm x.h]
  omega

/-! ## Bits -/

/-- The pending bits, and those of v above them. -/
theorem pbits_append {n : Nat} {a r : Nat} (h : a < 2 ^ r) (v : BitVec n) :
    BitVec.ofNat 39 a ||| v.setWidth 39 <<< r = BitVec.ofNat 39 (a + v.toNat * 2 ^ r) := by
  refine BitVec.eq_of_getLsbD_eq fun i hi => ?_
  rw [BitVec.getLsbD_or, BitVec.getLsbD_ofNat, BitVec.getLsbD_ofNat, BitVec.getLsbD_shiftLeft, BitVec.getLsbD_setWidth, Nat.add_comm a,
    Nat.mul_comm, Nat.testBit_two_pow_mul_add _ h]
  by_cases hr : i < r
  · simp [hr]
  · simp [hr, hi, show i - r < 39 by omega, BitVec.getLsbD,
      Nat.testBit_lt_two_pow (Nat.lt_of_lt_of_le h (Nat.pow_le_pow_right (by decide) (Nat.le_of_not_lt hr)))]

theorem pbits_drop (a n : Nat) (h : a < 2 ^ 39) : BitVec.ofNat 39 a >>> n = BitVec.ofNat 39 (a / 2 ^ n) := by
  refine BitVec.eq_of_toNat_eq ?_
  rw [BitVec.toNat_ushiftRight, BitVec.toNat_ofNat, BitVec.toNat_ofNat, Nat.mod_eq_of_lt h, Nat.shiftRight_eq_div_pow,
    Nat.mod_eq_of_lt (Nat.lt_of_le_of_lt (Nat.div_le_self _ _) h)]

theorem div_two_pow_lt {a c : Nat} (h : a < 2 ^ c) (e : Nat) : a / 2 ^ e < 2 ^ (c - e) :=
  Nat.div_lt_of_lt_mul (Nat.lt_of_lt_of_le h (by rw [← Nat.pow_add]; exact Nat.pow_le_pow_right (by decide) (by omega)))

/-- Bits put above the first c leave what a shift by at most c brings down, and join it above. -/
theorem append_div {a b c e : Nat} (he : e ≤ c) : (a + b * 2 ^ c) / 2 ^ e = a / 2 ^ e + b * 2 ^ (c - e) := by
  have hpow : b * 2 ^ c = b * 2 ^ (c - e) * 2 ^ e := by rw [Nat.mul_assoc, ← Nat.pow_add, Nat.sub_add_cancel he]
  rw [hpow, Nat.add_mul_div_right _ _ (Nat.two_pow_pos e)]

theorem append_field {a b c e n : Nat} (he : e + n ≤ c) : (a + b * 2 ^ c) / 2 ^ e % 2 ^ n = a / 2 ^ e % 2 ^ n := by
  have hpow : b * 2 ^ (c - e) = b * 2 ^ (c - e - n) * 2 ^ n := by rw [Nat.mul_assoc, ← Nat.pow_add, Nat.sub_add_cancel (by omega)]
  rw [append_div (by omega), hpow, Nat.add_mul_mod_self_right]

theorem append_lt {a b c n : Nat} (ha : a < 2 ^ c) (hb : b < 2 ^ n) : a + b * 2 ^ c < 2 ^ (c + n) := by
  calc a + b * 2 ^ c < 2 ^ c * (b + 1) := by rw [Nat.mul_add, Nat.mul_comm b]; omega
    _ ≤ 2 ^ c * 2 ^ n := Nat.mul_le_mul_left _ hb
    _ = 2 ^ (c + n) := (Nat.pow_add ..).symm

/-! ## A Write in progress -/

/-- The group that is pending is drawn before the first of m pixels. -/
def drawnFor (m : Nat) (s : State) : State := if 0 < m then flush s else s

/-- The next m pixels of a Write, of the bits p. -/
def writePixels (x : Xfer) (p m : Nat) (mem : Memory) : Memory :=
  (List.range m).foldl
    (fun mem k => writeDest x mem (cursorPixel x + k) (BitVec.ofNat 32 (p / 2 ^ (x.bpp * k) % 2 ^ x.bpp))) mem

/-- The bits and the byte count of a Write after d bytes, which make c bits p with the bits that waited, and j pixels. -/
def Xfer.bitsTaken (x : Xfer) (p c d j : Nat) : Xfer :=
  { x with done := x.done + d, pbits := BitVec.ofNat 39 (p / 2 ^ (x.bpp * j)), pcount := c - x.bpp * j }

/-- The engine of that Write: the cursor has moved by the pixels inside the rectangle. -/
def Xfer.taken (x : Xfer) (p c d j : Nat) : Xfer := (x.bitsTaken p c d j).atPixel (cursorPixel x + min j x.room)

/-- The state with that engine. -/
def State.taken (s : State) (p c d j : Nat) : State :=
  { drawnFor (min j s.xfer.room) s with
    mem := writePixels s.xfer p (min j s.xfer.room) (drawnFor (min j s.xfer.room) s).mem
    xfer := s.xfer.taken p c d j }

theorem flush_withXfer (s : State) (x : Xfer) : flush { s with xfer := x } = { flush s with xfer := x } := by
  have hite := apply_ite (fun t : State => { t with xfer := x }) (s.pending = true) (drawPending s) s
  exact hite.symm

/-- Before its next pixel a Write has drawn what was pending. -/
theorem flush_taken (s : State) (p c d j : Nat) : flush (s.taken p c d j) =
    { flush s with
      mem := writePixels s.xfer p (min j s.xfer.room) (flush s).mem
      xfer := s.xfer.taken p c d j } := by
  unfold State.taken drawnFor
  by_cases hm : 0 < min j s.xfer.room
  · rw [if_pos hm]
    exact flush_of_not_pending (flush_not_pending s)
  · rw [if_neg hm, show min j s.xfer.room = 0 by omega]
    exact flush_withXfer s _

section
variable {s : State} {p c d j : Nat}

theorem writePixels_succ (x : Xfer) (p m : Nat) (mem : Memory) : writePixels x p (m + 1) mem =
    writeDest x (writePixels x p m mem) (cursorPixel x + m) (BitVec.ofNat 32 (p / 2 ^ (x.bpp * m) % 2 ^ x.bpp)) := by
  simp [writePixels, List.range_succ]

theorem pixelValue_taken {x : Xfer} (h : p / 2 ^ (x.bpp * j) < 2 ^ 39) :
    (x.taken p c d j).pixelValue = BitVec.ofNat 32 (p / 2 ^ (x.bpp * j) % 2 ^ x.bpp) := by
  have hpbits : (x.taken p c d j).pbits.toNat = p / 2 ^ (x.bpp * j) := (BitVec.toNat_ofNat ..).trans (Nat.mod_eq_of_lt h)
  rw [Xfer.pixelValue, hpbits]
  rfl

/-- The bits of a pixel are dropped, wherever the cursor is. -/
theorem dropBits_bitsTaken {x : Xfer} (h : p / 2 ^ (x.bpp * j) < 2 ^ 39) (q : Nat) :
    ((x.bitsTaken p c d j).atPixel q).dropBits x.bpp = (x.bitsTaken p c d (j + 1)).atPixel q := by
  have hbits : BitVec.ofNat 39 (p / 2 ^ (x.bpp * j)) >>> x.bpp = BitVec.ofNat 39 (p / 2 ^ (x.bpp * (j + 1))) := by
    rw [pbits_drop _ _ h, Nat.div_div_eq_div_mul, ← Nat.pow_add, Nat.mul_succ]
  have hcount : c - x.bpp * j - x.bpp = c - x.bpp * (j + 1) := by rw [Nat.mul_succ, Nat.sub_sub]
  rw [Xfer.bitsTaken, Xfer.bitsTaken, ← hbits, ← hcount]
  rfl

/-- A pixel inside the rectangle is written where the cursor is. -/
theorem commitPixel_inside (hw : 0 < s.xfer.w) (hroom : j < s.xfer.room) (v : BitVec 32) :
    commitPixel v (s.taken p c d j) = { flush s with
      mem := writeDest s.xfer (writePixels s.xfer p j (flush s).mem) (cursorPixel s.xfer + j) v
      xfer := (s.xfer.bitsTaken p c d j).atPixel (cursorPixel s.xfer + (j + 1)) } := by
  have hmin : min j s.xfer.room = j := Nat.min_eq_left (Nat.le_of_lt hroom)
  have hcy : ¬ (s.taken p c d j).xfer.h ≤ (s.taken p c d j).xfer.cy :=
    Nat.not_le.mpr ((cursorOn_inside hw (min j s.xfer.room)).2 (by omega))
  have hadvance : (s.xfer.taken p c d j).advance = (s.xfer.bitsTaken p c d j).atPixel (cursorPixel s.xfer + (j + 1)) := by
    rw [Xfer.taken, hmin]
    exact atPixel_advance (x := s.xfer.bitsTaken p c d j) hw _
  have hdest : ∀ mem, writeDest s.xfer mem (cursorPixel s.xfer + j) v =
      writeDest s.xfer mem (cursorPixel s.xfer + min j s.xfer.room) v := by rw [hmin]; exact fun _ => rfl
  rw [commitPixel, if_neg hcy, flush_taken, hmin, ← hadvance, hdest, writeDest, listedPsm_eq_knownPsm]
  rfl

/-- A pixel outside it is not written. -/
theorem commitPixel_outside (hw : 0 < s.xfer.w) (hroom : ¬ j < s.xfer.room) (v : BitVec 32) :
    commitPixel v (s.taken p c d j) = s.taken p c d j := by
  have hinside := cursorOn_inside hw (min j s.xfer.room)
  exact if_pos (Nat.not_lt.mp fun h => by have := hinside.1 h; omega)

/-- A pixel is complete: it is written if it is inside the rectangle, and its bits are dropped. -/
theorem commitPixel_taken (hw : 0 < s.xfer.w) (hp : p < 2 ^ c) (hc : c - s.xfer.bpp * j ≤ 39) :
    let t := commitPixel (s.xfer.taken p c d j).pixelValue (s.taken p c d j)
    { t with xfer := t.xfer.dropBits s.xfer.bpp } = s.taken p c d (j + 1) := by
  have hbits : p / 2 ^ (s.xfer.bpp * j) < 2 ^ 39 :=
    Nat.lt_of_lt_of_le (div_two_pow_lt hp _) (Nat.pow_le_pow_right (by decide) hc)
  dsimp only
  by_cases hroom : j < s.xfer.room
  · rw [commitPixel_inside hw hroom, pixelValue_taken hbits, ← writePixels_succ]
    conv_rhs => rw [State.taken, drawnFor, Nat.min_eq_left hroom, if_pos (Nat.succ_pos j), Xfer.taken, Nat.min_eq_left hroom]
    dsimp only
    rw [dropBits_bitsTaken hbits]
  · have hmin : min (j + 1) s.xfer.room = min j s.xfer.room := by omega
    rw [commitPixel_outside hw hroom]
    conv_rhs => rw [State.taken, hmin, Xfer.taken, hmin, ← dropBits_bitsTaken hbits]
    rfl

/-- The loop over the pending bits ends when they are fewer than a pixel's. -/
theorem commitLoop_taken (hw : 0 < s.xfer.w) (hb : 0 < s.xfer.bpp) (hp : p < 2 ^ c) (hc : c - s.xfer.bpp * j ≤ 39)
    (hj : s.xfer.bpp * j ≤ c) {k : Nat} (hk : c - s.xfer.bpp * j ≤ k) (wrote : Bool) :
    commitLoop k (s.taken p c d j, wrote) = (s.taken p c d (c / s.xfer.bpp), wrote || decide (j < c / s.xfer.bpp)) := by
  have hstop : ∀ {j}, s.xfer.bpp * j ≤ c → c < s.xfer.bpp * (j + 1) → c / s.xfer.bpp = j := fun hj h =>
    Nat.div_eq_of_lt_le (by rwa [Nat.mul_comm]) (by rwa [Nat.mul_comm])
  induction k generalizing j wrote with
  | zero =>
    rw [hstop hj (by rw [Nat.mul_succ]; omega)]
    simp [commitLoop]
  | succ k ih =>
    unfold commitLoop
    by_cases hmore : s.xfer.bpp * (j + 1) ≤ c
    · have hnext := commitPixel_taken (d := d) hw hp hc
      have hdone : j < c / s.xfer.bpp := (Nat.le_div_iff_mul_le hb).2 (by rwa [Nat.mul_comm])
      rw [if_pos ⟨hb, show s.xfer.bpp ≤ c - s.xfer.bpp * j by rw [Nat.mul_succ] at hmore; omega⟩]
      refine (congrArg (fun t => commitLoop k (t, true)) hnext).trans ?_
      have hleft : c - s.xfer.bpp * (j + 1) ≤ k := by rw [Nat.mul_succ]; omega
      rw [ih (by rw [Nat.mul_succ]; omega) hmore hleft, decide_eq_true hdone, Bool.true_or, Bool.or_true]
    · rw [if_neg fun h => hmore (by rw [Nat.mul_succ]; have : s.xfer.bpp ≤ c - s.xfer.bpp * j := h.2; omega),
        hstop hj (Nat.not_le.mp hmore)]
      simp

/-- A byte joins the bits. -/
theorem takeByte_taken (hp : p < 2 ^ c) (hj : s.xfer.bpp * j ≤ c) (b : Byte) :
    { s.taken p c d j with xfer := (s.taken p c d j).xfer.takeByte b } = s.taken (p + b.toNat * 2 ^ c) (c + 8) (d + 1) j := by
  have hpixels : ∀ m, m ≤ j → ∀ mem, writePixels s.xfer (p + b.toNat * 2 ^ c) m mem = writePixels s.xfer p m mem := by
    intro m hm mem
    refine List.foldl_ext _ _ _ fun mem' k hk => ?_
    have hk : k + 1 ≤ j := by have := List.mem_range.mp hk; omega
    have hfield := Nat.le_trans (Nat.mul_le_mul_left s.xfer.bpp hk) hj
    rw [append_field (by rwa [Nat.mul_succ] at hfield)]
  have hbits : BitVec.ofNat 39 (p / 2 ^ (s.xfer.bpp * j)) ||| b.setWidth 39 <<< (c - s.xfer.bpp * j) =
      BitVec.ofNat 39 ((p + b.toNat * 2 ^ c) / 2 ^ (s.xfer.bpp * j)) := by
    rw [append_div hj, pbits_append (div_two_pow_lt hp _)]
  have hxfer : (s.xfer.taken p c d j).takeByte b = s.xfer.taken (p + b.toNat * 2 ^ c) (c + 8) (d + 1) j := by
    rw [Xfer.taken, Xfer.taken, Xfer.bitsTaken, Xfer.bitsTaken, ← hbits, ← Nat.add_assoc, Nat.sub_add_comm hj]
    rfl
  conv_rhs => rw [State.taken, hpixels _ (Nat.min_le_left ..), ← hxfer]
  rfl

/-- What ends a Write after its last byte. -/
def State.finishedIfDone (s : State) : State := { s with xfer := s.xfer.finishIfDone }

/-- A byte that the Write takes, with the pixels that it completes. -/
theorem xferByte_taken (hx : WriteArmed s.xfer) (hd : s.xfer.done + d < s.xfer.total) (hp : p < 2 ^ c) (wrote : Bool) (b : Byte) :
    xferByte (s.taken p c d (c / s.xfer.bpp), wrote) b =
      ((s.taken (p + b.toNat * 2 ^ c) (c + 8) (d + 1) ((c + 8) / s.xfer.bpp)).finishedIfDone,
        wrote || decide (c / s.xfer.bpp < (c + 8) / s.xfer.bpp)) := by
  have hidle : s.xfer.mode ≠ .idle := by simp [hx.mode]
  obtain ⟨hlow, hhigh⟩ := bpp_range hx.ok hidle
  have hw : 0 < s.xfer.w := hx.ok.size hidle
  have hdiv := Nat.div_add_mod c s.xfer.bpp
  have hmod := Nat.mod_lt c (show 0 < s.xfer.bpp by omega)
  have htakes : (s.taken p c d (c / s.xfer.bpp)).xfer.takesByte = true := (takesByte_iff _).2 ⟨hx.mode, hd⟩
  have hcount : (s.taken p c d (c / s.xfer.bpp)).xfer.pcount + 8 = c + 8 - s.xfer.bpp * (c / s.xfer.bpp) :=
    (Nat.sub_add_comm (Nat.mul_div_le ..)).symm
  rw [xferByte, if_pos htakes, takeByte_taken hp (Nat.mul_div_le ..), hcount,
    commitLoop_taken hw (by omega) (append_lt hp b.isLt) (by omega) (by omega) (Nat.le_refl _)]
  rfl

end

/-! ## A run of bytes -/

/-- The bits that wait in a Write, and above them those of the low d bytes of v. -/
def bitsAfter (x : Xfer) (v d : Nat) : Nat := x.pbits.toNat + v % 2 ^ (8 * d) * 2 ^ x.pcount

/-- The state of a Write that has taken the low d bytes of v. -/
def State.afterBytes (s : State) (v d : Nat) : State :=
  s.taken (bitsAfter s.xfer v d) (s.xfer.pcount + 8 * d) d ((s.xfer.pcount + 8 * d) / s.xfer.bpp)

theorem bytesOf_succ {n : Nat} (k : Nat) (v : BitVec n) : bytesOf (k + 1) v = bytesOf k v ++ [bits v (8 * k) 8] := by
  simp [bytesOf, List.range_succ]

theorem bitsAfter_lt {x : Xfer} (hx : x.Ok) (v d : Nat) : bitsAfter x v d < 2 ^ (x.pcount + 8 * d) :=
  append_lt hx.bits (Nat.mod_lt _ (Nat.two_pow_pos _))

theorem bitsAfter_succ (x : Xfer) {n : Nat} (v : BitVec n) (d : Nat) :
    bitsAfter x v.toNat d + (bits v (8 * d) 8).toNat * 2 ^ (x.pcount + 8 * d) = bitsAfter x v.toNat (d + 1) := by
  have hbyte : (bits v (8 * d) 8).toNat = v.toNat / 2 ^ (8 * d) % 2 ^ 8 := by
    simp [bits, BitVec.extractLsb'_toNat, Nat.shiftRight_eq_div_pow]
  rw [hbyte, bitsAfter, bitsAfter, Nat.mul_succ, Nat.pow_add 2 (8 * d), Nat.mod_mul, Nat.pow_add 2 x.pcount]
  ring

theorem finishIfDone_of_done {x : Xfer} (h : x.done = x.total) : x.finishIfDone = ended x := if_pos h

theorem finishIfDone_of_not_done {x : Xfer} (h : x.done ≠ x.total) : x.finishIfDone = x := if_neg h

theorem finishedIfDone_of_not_done {s : State} (h : s.xfer.done ≠ s.xfer.total) : s.finishedIfDone = s := by
  rw [State.finishedIfDone, finishIfDone_of_not_done h]

/-- With no byte taken nothing has changed. -/
theorem afterBytes_zero {s : State} (hx : WriteArmed s.xfer) (v : Nat) : s.afterBytes v 0 = s := by
  have hidle : s.xfer.mode ≠ .idle := by simp [hx.mode]
  have hnone : (s.xfer.pcount + 8 * 0) / s.xfer.bpp = 0 := Nat.div_eq_of_lt (hx.ok.write hx.mode)
  have hbits : bitsAfter s.xfer v 0 = s.xfer.pbits.toNat := by simp [bitsAfter, Nat.mod_one]
  have hxfer : s.xfer.taken s.xfer.pbits.toNat s.xfer.pcount 0 0 = s.xfer := by
    have hcursor := atPixel_cursorPixel (hx.ok.armed hidle).cx_lt
    simpa [Xfer.taken, Xfer.bitsTaken] using hcursor
  rw [State.afterBytes, hnone, hbits, Nat.mul_zero, Nat.add_zero, State.taken, hxfer, Nat.zero_min]
  rfl

/-- The bytes that a Write takes, as one. -/
theorem xferBytes_taken {s : State} (hx : WriteArmed s.xfer) {n d : Nat} (v : BitVec n) (hd : s.xfer.done + d ≤ s.xfer.total) :
    (bytesOf d v).foldl xferByte (s, false) =
      ((s.afterBytes v.toNat d).finishedIfDone, decide (0 < (s.xfer.pcount + 8 * d) / s.xfer.bpp)) := by
  induction d with
  | zero =>
    rw [afterBytes_zero hx, finishedIfDone_of_not_done (Nat.ne_of_lt hx.more), Nat.mul_zero, Nat.add_zero,
      Nat.div_eq_of_lt (hx.ok.write hx.mode)]
    rfl
  | succ d ih =>
    have hrun : (s.afterBytes v.toNat d).finishedIfDone = s.afterBytes v.toNat d :=
      finishedIfDone_of_not_done (show s.xfer.done + d ≠ s.xfer.total by omega)
    have hflag : ∀ {a b : Nat}, a ≤ b → (0 < a ∨ a < b ↔ 0 < b) := by omega
    have hgrow : (s.xfer.pcount + 8 * d) / s.xfer.bpp ≤ (s.xfer.pcount + 8 * d + 8) / s.xfer.bpp :=
      Nat.div_le_div_right (by omega)
    rw [bytesOf_succ, List.foldl_append, ih (by omega), hrun, State.afterBytes, List.foldl_cons, List.foldl_nil,
      xferByte_taken hx (by omega) (bitsAfter_lt hx.ok _ _), bitsAfter_succ, State.afterBytes, ← Bool.decide_or,
      show s.xfer.pcount + 8 * (d + 1) = s.xfer.pcount + 8 * d + 8 by omega]
    exact Prod.ext rfl (decide_eq_decide.mpr (hflag hgrow))

theorem bytesOf_take {n k : Nat} (h : k ≤ n) {w : Nat} (v : BitVec w) : (bytesOf n v).take k = bytesOf k v := by
  simp [bytesOf, ← List.map_take, List.take_range, Nat.min_eq_left h]

/-- A Write drops bytes only when it has all of them. -/
theorem done_of_dropped {x : Xfer} (hx : x.done ≤ x.total) {n : Nat} (h : takenBytes x n < n) : x.done + takenBytes x n = x.total := by
  unfold takenBytes at *; omega

/-- The bytes that a Write is given: those it takes, and the others, which it drops. -/
theorem xferBytes_armed {s : State} (hx : WriteArmed s.xfer) (n : Nat) {w : Nat} (v : BitVec w) :
    (bytesOf n v).foldl xferByte (s, false) =
      (let t := (s.afterBytes v.toNat (takenBytes s.xfer n)).finishedIfDone
        if takenBytes s.xfer n < n then dropByte t else t, decide (0 < completed s.xfer n)) := by
  have hall : s.xfer.done + takenBytes s.xfer n ≤ s.xfer.total := by
    have := hx.more; unfold takenBytes; omega
  have htaken := xferBytes_taken hx v hall
  rw [← List.take_append_drop (takenBytes s.xfer n) (bytesOf n v), List.foldl_append,
    bytesOf_take (show takenBytes s.xfer n ≤ n from Nat.min_le_left ..), htaken]
  by_cases hdrop : takenBytes s.xfer n < n
  · have hend : (s.afterBytes v.toNat (takenBytes s.xfer n)).finishedIfDone.xfer.takesByte = false := by
      rw [takesByte_eq_false_iff, State.finishedIfDone, finishIfDone_of_done (done_of_dropped (Nat.le_of_lt hx.more) hdrop)]
      exact .inl nofun
    rw [xferBytes_dropped hend, if_neg (by simpa [bytesOf_length] using hdrop)]
    simp only [if_pos hdrop]
    rfl
  · rw [List.drop_of_length_le (by rw [bytesOf_length]; omega)]
    simp only [if_neg hdrop]
    rfl

/-- The engine after the data, with the overflow flag as it was. -/
theorem afterBytes_xfer (s : State) (n v : Nat) :
    { (s.afterBytes v (takenBytes s.xfer n)).finishedIfDone.xfer with
      overflow := s.xfer.overflow || decide (takenBytes s.xfer n < n) } = xferAfterData s.xfer n v := by
  unfold xferAfterData
  by_cases hend : s.xfer.done + takenBytes s.xfer n = s.xfer.total
  · rw [if_pos hend, State.finishedIfDone, finishIfDone_of_done hend]
    rfl
  · rw [if_neg hend, finishedIfDone_of_not_done hend]
    rfl

/-- Dropping a byte sets the overflow flag, and logs it if it was not set. -/
theorem dropByte_eq (s : State) : dropByte s = { s with
    xfer := { s.xfer with overflow := true }
    out := s.out ++ if s.xfer.overflow = false then [.log .transferOverflow] else [] } := by
  unfold dropByte
  cases h : s.xfer.overflow with
  | true =>
    have hx : { s.xfer with overflow := true } = s.xfer := by rw [← h]
    simp [hx]
  | false => rfl

/-- The bytes dropped after those taken. -/
theorem afterBytes_dropped (s : State) (n v : Nat) :
    (if takenBytes s.xfer n < n then dropByte (s.afterBytes v (takenBytes s.xfer n)).finishedIfDone
      else (s.afterBytes v (takenBytes s.xfer n)).finishedIfDone) =
    { s.afterBytes v (takenBytes s.xfer n) with
      xfer := xferAfterData s.xfer n v
      out := (s.afterBytes v (takenBytes s.xfer n)).out ++
        if takenBytes s.xfer n < n ∧ s.xfer.overflow = false then [.log .transferOverflow] else [] } := by
  have hoverflow : (s.afterBytes v (takenBytes s.xfer n)).finishedIfDone.xfer.overflow = s.xfer.overflow := by
    unfold State.finishedIfDone Xfer.finishIfDone; split <;> rfl
  rw [← afterBytes_xfer]
  by_cases hdrop : takenBytes s.xfer n < n
  · rw [if_pos hdrop, dropByte_eq, hoverflow, decide_eq_true hdrop, Bool.or_true]
    simp only [hdrop, true_and]
    rfl
  · rw [if_neg hdrop, decide_eq_false hdrop, Bool.or_false, ← hoverflow, if_neg fun h => hdrop h.1, List.append_nil]
    rfl

/-- Data of a Write has the effect the spec states. -/
theorem xferData_armed {s : State} (hx : WriteArmed s.xfer) (n : Nat) {w : Nat} (v : BitVec w) :
    xferData (bytesOf n v) s = afterData n v.toNat s := by
  simp only [xferData, xferBytes_armed hx, afterBytes_dropped]
  by_cases hwrote : 0 < completed s.xfer n
  · rw [if_pos (decide_eq_true hwrote)]
    unfold afterData
    simp only [if_pos hwrote]
    rfl
  · rw [if_neg (by simp [hwrote])]
    unfold afterData
    simp only [if_neg hwrote, List.append_nil]
    rfl

/-- Settles O42: the run of bytes, and what the pixels and their places are. -/
theorem dataWritesPixels : Obligations.DataWritesPixels :=
  ⟨transferFields, pixelPlaces, pixelAccess, fun v s hx => by rw [exec_hwreg, xferData_armed hx],
    fun q s hx i hi => by rw [exec_imageData hi, xferData_armed hx]⟩

/-! ## The frame of transfer data (44_transfer R366, R382) -/

/-- Instructions that carry n bytes of data run them, and touch at most the path of the feed call. -/
theorem exec_data {s t : State} {n : Nat} {i : Instr}
    (h : ((∃ v, i = .adHwreg v) ∧ n = 8) ∨ ((∃ q, i = .giftagImage (.data q) ∨ i = .giftagImage2 (.data q)) ∧ n = 16))
    (ht : exec i s = .next t) :
    ∃ (w : Nat) (v : BitVec w) (p : PathState), t = (xferData (bytesOf n v) s).setPath s.feed.path p := by
  obtain ⟨⟨v, rfl⟩, rfl⟩ | ⟨⟨q, hi⟩, rfl⟩ := h
  · rw [exec_hwreg] at ht
    exact ⟨64, v, _, (Host.Outcome.next.inj ht).symm.trans (setPath_self ..).symm⟩
  · rw [exec_imageData (by simpa using hi)] at ht
    exact ⟨128, q, _, (Host.Outcome.next.inj ht).symm⟩

theorem load_fillPixels_outside {x : Xfer} {n a : Nat}
    (h : ∀ k, cursorPixel x ≤ k → k < cursorPixel x + (x.pcount + 8 * n) / x.bpp → k < x.w * x.h → ¬ pixelCovers (destPixel x k) a)
    (v : Nat) (m : Memory) : (fillPixels x n v m).load a = m.load a := by
  have hcompleted : completed x n ≤ (x.pcount + 8 * n) / x.bpp :=
    Nat.div_le_div_right (by have : takenBytes x n ≤ n := Nat.min_le_left ..; omega)
  refine load_foldl _ a _ (fun m' k hk => load_writePixel_outside _ _ _ _ _ _ _ ?_) m
  have hk : k < min (completed x n) (x.w * x.h - cursorPixel x) := List.mem_range.mp hk
  exact h _ (Nat.le_add_right ..) (by omega) (by omega)

/-- With nothing pending, data touches the queue not at all and memory at the pixels it completes only. -/
theorem xferData_drawing {s : State} (hok : s.xfer.Ok) (hp : s.pending = false) {n : Nat} (hn : n ≠ 0) {w : Nat} (v : BitVec w) :
    (xferData (bytesOf n v) s).vq = s.vq ∧ ∀ a, (∀ k, cursorPixel s.xfer ≤ k →
      k < cursorPixel s.xfer + (s.xfer.pcount + 8 * n) / s.xfer.bpp → k < s.xfer.w * s.xfer.h →
        ¬ pixelCovers (destPixel s.xfer k) a) → (xferData (bytesOf n v) s).mem.load a = s.mem.load a := by
  cases htakes : s.xfer.takesByte with
  | true =>
    obtain ⟨hmode, hmore⟩ := (takesByte_iff s.xfer).1 htakes
    have hf : (if 0 < stored s.xfer n then flush s else s) = s := by rw [flush_of_not_pending hp, ite_self]
    rw [xferData_armed ⟨hok, hmode, hmore⟩, afterData, hf]
    exact ⟨rfl, fun a h => load_fillPixels_outside h _ _⟩
  | false =>
    rw [xferData_dropped htakes (fun h => hn (by rw [← bytesOf_length n v, h]; rfl)), dropByte_eq]
    exact ⟨rfl, fun _ _ => rfl⟩

/-- Settles O43: what the engine leaves alone, and where a Write writes. -/
theorem dataFrame : Obligations.DataFrame := by
  intro s t n i hi hok ht
  obtain ⟨w, v, p, rfl⟩ := exec_data hi ht
  have hn : n ≠ 0 := by obtain ⟨_, rfl⟩ | ⟨_, rfl⟩ := hi <;> decide
  have hreach := xferData_reach (bytesOf n v) s
  have hregs : SameRegisters s ((xferData (bytesOf n v) s).setPath s.feed.path p) :=
    ⟨by rw [setPath_env, hreach.env], fun c => by rw [setPath_ctx, hreach.sameRegisters.ctx c]⟩
  have hpath : ∀ q, q ≠ s.feed.path → ((xferData (bytesOf n v) s).setPath s.feed.path p).path q = s.path q := fun q hq => by
    rw [path_setPath_ne _ hq, path_eq hreach.path0 hreach.path1 hreach.path2 hreach.path3]
  simp only [setPath_vacc, setPath_qint, setPath_win, setPath_cfg, setPath_fault, setPath_refused, setPath_calls, setPath_feed,
    setPath_blobs, setPath_vq, setPath_mem]
  exact ⟨hregs, hreach.vacc, hreach.qint, hreach.win, hpath, hreach.cfg, hreach.fault, hreach.refused, hreach.calls, hreach.feed,
    hreach.blobs, fun hp => xferData_drawing hok hp hn v⟩

end Sys2Proof.Machine
end

section
/-! PROOFS. Bytes of a Read (44_transfer R364, R368, R369, R377, R378): the engine with some pixels fetched and some bytes given, as a
function of both numbers, and what a pixel, a byte and a run of bytes do to it. -/

namespace Sys2Proof.Machine

/-! ## Surplus bytes (44_transfer R378) -/

theorem givesByte_iff (x : Xfer) : x.givesByte = true ↔ x.mode = .read ∧ x.done < x.total := by simp [Xfer.givesByte]

theorem givesByte_eq_false_iff (x : Xfer) : x.givesByte = false ↔ x.mode ≠ .read ∨ x.total ≤ x.done := by
  rw [← Bool.not_eq_true, givesByte_iff, not_and_or, Nat.not_lt]

/-- A byte past the Read counts a free value and changes nothing else. -/
theorem readBytes_surplus {s : State} (h : s.xfer.givesByte = false) (n : Nat) :
    (readBytes n s).1 = { s with freeCount := s.freeCount + n } := by
  induction n generalizing s with
  | zero => rfl
  | succ n ih =>
    have hbyte : (readByte s).1 = { s with freeCount := s.freeCount + 1 } := by simp [readByte, h]
    have hrest : (readBytes (n + 1) s).1 = (readBytes n (readByte s).1).1 := rfl
    rw [hrest, hbyte, ih (s := { s with freeCount := s.freeCount + 1 }) h]
    simp only [Nat.add_assoc, Nat.add_comm 1]

/-- Settles O47: every byte of the call is a surplus one. -/
theorem surplusReadFifoOnlyReports : Obligations.SurplusReadFifoOnlyReports := by
  intro s n rest h hnone
  have hrun := readBytes_surplus (s := { s with calls := rest }) ((givesByte_eq_false_iff s.xfer).2 hnone) (16 * n)
  refine ⟨_, readBytes_length (16 * n) { s with calls := rest }, ?_⟩
  rw [step_of_call h, hostCall, readFIFO, hrun]
  rfl

/-! ## The pixels a Read fetches -/

/-- The bits that wait, and above them those of the next k pixels of memory m. -/
def fetchedBits (x : Xfer) (m : Memory) (k : Nat) : Nat :=
  x.pbits.toNat + 2 ^ x.pcount *
    (List.range k).foldl (fun b i => b + (readSource x m (cursorPixel x + i)).toNat * 2 ^ (x.bpp * i)) 0

/-- How many pixels the next g bytes need, as far as the rectangle goes. -/
def pixelsFor (x : Xfer) (g : Nat) : Nat := min ((8 * g - x.pcount + x.bpp - 1) / x.bpp) x.room

theorem fetchedBits_succ (x : Xfer) (m : Memory) (k : Nat) : fetchedBits x m (k + 1) =
    fetchedBits x m k + (readSource x m (cursorPixel x + k)).toNat * 2 ^ (x.pcount + x.bpp * k) := by
  simp only [fetchedBits, List.range_succ, List.foldl_append, List.foldl_cons, List.foldl_nil]
  ring

/-- Pixels fetched later do not change the bits that are there. -/
theorem fetchedBits_field {x : Xfer} (m : Memory) {k l e n : Nat} (hkl : k ≤ l) (he : e + n ≤ x.pcount + x.bpp * k) :
    fetchedBits x m l / 2 ^ e % 2 ^ n = fetchedBits x m k / 2 ^ e % 2 ^ n := by
  induction l, hkl using Nat.le_induction with
  | base => rfl
  | succ l hkl ih =>
    have hmul := Nat.mul_le_mul_left x.bpp hkl
    rw [fetchedBits_succ, append_field (by omega), ih]

section
variable {x : Xfer} (hx : ReadArmed x)
include hx

theorem ReadArmed.bpp_range : 4 ≤ x.bpp ∧ x.bpp ≤ 32 := Machine.bpp_range hx.ok (by simp [hx.mode])

theorem ReadArmed.w_pos : 0 < x.w := hx.ok.size (by simp [hx.mode])

theorem readSource_lt (m : Memory) (k : Nat) : (readSource x m k).toNat < 2 ^ x.bpp := by
  rw [hx.ok.bppRead hx.mode, readSource, listedPsm_eq_knownPsm]
  exact readPixel_lt ..

theorem fetchedBits_lt (m : Memory) (k : Nat) : fetchedBits x m k < 2 ^ (x.pcount + x.bpp * k) := by
  induction k with
  | zero => simpa [fetchedBits] using hx.ok.bits
  | succ k ih =>
    rw [fetchedBits_succ, Nat.mul_succ, ← Nat.add_assoc]
    exact append_lt ih (readSource_lt hx m _)

theorem pixelsFor_le_iff (g k : Nat) : pixelsFor x g ≤ k ↔ 8 * g ≤ x.pcount + x.bpp * k ∨ x.room ≤ k := by
  have hb : 0 < x.bpp := by have := hx.bpp_range; omega
  have hceil : (8 * g - x.pcount + x.bpp - 1) / x.bpp ≤ k ↔ 8 * g ≤ x.pcount + x.bpp * k := by
    rw [← Nat.lt_succ_iff, Nat.div_lt_iff_lt_mul hb, Nat.succ_mul k, Nat.mul_comm k]
    omega
  rw [pixelsFor, min_le_iff, hceil]

theorem pixelsFor_mono {g l : Nat} (h : g ≤ l) : pixelsFor x g ≤ pixelsFor x l := by
  have hl := (pixelsFor_le_iff hx l _).1 (Nat.le_refl _)
  exact (pixelsFor_le_iff hx g _).2 (hl.imp (fun h' => by omega) id)

/-- Where bytes are to come, the bits there are at most those of a pixel and of a byte not yet full. -/
theorem pixelsFor_bits (g : Nat) : x.pcount + x.bpp * pixelsFor x (g + 1) - 8 * g ≤ 39 := by
  have hb := hx.bpp_range
  have hp := hx.ok.read hx.mode
  cases hk : pixelsFor x (g + 1) with
  | zero => rw [Nat.mul_zero]; omega
  | succ k =>
    have hfew : ¬ pixelsFor x (g + 1) ≤ k := by omega
    rw [pixelsFor_le_iff hx] at hfew
    rw [Nat.mul_succ]
    omega

end

/-! ## A Read in progress -/

/-- The engine of a Read that has fetched k pixels from memory m and given g bytes. -/
def Xfer.given (x : Xfer) (m : Memory) (k g : Nat) : Xfer :=
  Xfer.atPixel { x with
    done := x.done + g, pbits := BitVec.ofNat 39 (fetchedBits x m k / 2 ^ (8 * g)), pcount := x.pcount + x.bpp * k - 8 * g }
    (cursorPixel x + k)

/-- The state with that engine: the pending group is drawn before the first pixel is fetched. -/
def State.given (s : State) (k g : Nat) : State := { drawnFor k s with xfer := s.xfer.given (flush s).mem k g }

theorem flush_given (s : State) (k g : Nat) : flush (s.given k g) = { flush s with xfer := s.xfer.given (flush s).mem k g } := by
  unfold State.given drawnFor
  split
  · exact flush_of_not_pending (flush_not_pending s)
  · exact flush_withXfer s _

/-- Past the rectangle a byte is filled up with zeros. -/
def State.padded (s : State) : State := { s with xfer := { s.xfer with pcount := max s.xfer.pcount 8 } }

theorem padded_of_full {s : State} (h : 8 ≤ s.xfer.pcount) : s.padded = s := by rw [State.padded, Nat.max_eq_left h]

theorem fillLoop_of_full {s : State} (h : 8 ≤ s.xfer.pcount) (r : Nat) : fillLoop r s = s := by
  cases r with
  | zero => rfl
  | succ r => exact if_neg (Nat.not_lt.mpr h)

theorem fillLoop_of_short {s : State} (h : s.xfer.pcount < 8) (hend : ¬ s.xfer.cy < s.xfer.h) (r : Nat) :
    fillLoop (r + 1) s = s.padded := by
  rw [fillLoop, if_pos h, if_neg hend, State.padded, Nat.max_eq_right (Nat.le_of_lt h)]
  exact fillLoop_of_full (Nat.le_refl 8) r

section
variable {s : State} (hx : ReadArmed s.xfer)
include hx

/-- The next pixel joins the bits. -/
theorem fetchPixel_given {k g : Nat} (hg : 8 * g ≤ s.xfer.pcount + s.xfer.bpp * k) :
    fetchPixel (s.given k g) = s.given (k + 1) g := by
  have hbits := pbits_append (div_two_pow_lt (fetchedBits_lt hx (flush s).mem k) (8 * g))
    (readSource s.xfer (flush s).mem (cursorPixel s.xfer + k))
  rw [← append_div hg, ← fetchedBits_succ] at hbits
  have hcount : s.xfer.pcount + s.xfer.bpp * k - 8 * g + s.xfer.bpp = s.xfer.pcount + s.xfer.bpp * (k + 1) - 8 * g := by
    rw [Nat.mul_succ]; omega
  have hnext : ((s.xfer.given (flush s).mem k g).takePixel (readSource s.xfer (flush s).mem (cursorPixel s.xfer + k))).advance =
      s.xfer.given (flush s).mem (k + 1) g := by
    rw [Xfer.given, Xfer.given, ← Nat.add_assoc, ← hbits, ← hcount]
    exact atPixel_advance (x := Xfer.takePixel { s.xfer with
      done := s.xfer.done + g
      pbits := BitVec.ofNat 39 (fetchedBits s.xfer (flush s).mem k / 2 ^ (8 * g))
      pcount := s.xfer.pcount + s.xfer.bpp * k - 8 * g } _) hx.w_pos _
  have hread : ∀ m, readPixel m (knownPsm (spsm (s.given k g).xfer.blit)) (sbp (s.given k g).xfer.blit)
      (sbw (s.given k g).xfer.blit) (rectX (ssax (s.given k g).xfer.pos) (s.given k g).xfer.cx)
      (rectY (ssay (s.given k g).xfer.pos) (s.given k g).xfer.cy) = readSource s.xfer m (cursorPixel s.xfer + k) := by
    intro m
    rw [readSource, listedPsm_eq_knownPsm]
    rfl
  rw [fetchPixel, hread, flush_given]
  conv_rhs => rw [State.given, drawnFor, if_pos (Nat.succ_pos k), ← hnext]
  rfl

/-- The fill before byte g fetches the pixels that the byte needs, and pads it past the rectangle. -/
theorem fillLoop_given {k g r : Nat} (hmin : pixelsFor s.xfer g ≤ k) (hmax : k ≤ pixelsFor s.xfer (g + 1))
    (hr : 8 ≤ s.xfer.pcount + s.xfer.bpp * k - 8 * g + 4 * r) :
    fillLoop r (s.given k g) = (s.given (pixelsFor s.xfer (g + 1)) g).padded := by
  have hb := hx.bpp_range
  have hfull : ∀ {k}, k ≤ pixelsFor s.xfer (g + 1) → 8 ≤ s.xfer.pcount + s.xfer.bpp * k - 8 * g →
      k = pixelsFor s.xfer (g + 1) := fun hmax h8 =>
    Nat.le_antisymm hmax ((pixelsFor_le_iff hx _ _).2 (.inl (by omega)))
  induction r generalizing k with
  | zero => rw [← hfull hmax hr, padded_of_full (show 8 ≤ (s.given k g).xfer.pcount from hr), fillLoop]
  | succ r ih =>
    by_cases h8 : 8 ≤ s.xfer.pcount + s.xfer.bpp * k - 8 * g
    · rw [← hfull hmax h8, padded_of_full h8, fillLoop_of_full h8]
    have hshort : (s.given k g).xfer.pcount < 8 := Nat.not_le.mp h8
    have hinside : (s.given k g).xfer.cy < (s.given k g).xfer.h ↔ k < s.xfer.room := cursorOn_inside hx.w_pos k
    by_cases hroom : k < s.xfer.room
    · have hmore : k < pixelsFor s.xfer (g + 1) := by
        refine Nat.not_le.mp fun hle => ?_
        have := (pixelsFor_le_iff hx (g + 1) k).1 hle
        omega
      have hg : 8 * g ≤ s.xfer.pcount + s.xfer.bpp * k := ((pixelsFor_le_iff hx g k).1 hmin).resolve_right (by omega)
      rw [fillLoop, if_pos hshort, if_pos (hinside.2 hroom), fetchPixel_given hx hg]
      exact ih (by omega) hmore (by rw [Nat.mul_succ]; omega)
    · rw [fillLoop_of_short hshort (fun h => hroom (hinside.1 h)),
        Nat.le_antisymm hmax (Nat.le_trans (Nat.min_le_right ..) (Nat.not_lt.mp hroom))]

/-- Byte g of the Read, with the pixels that it needs. -/
theorem readByte_given {g : Nat} (hg : s.xfer.done + g < s.xfer.total) :
    readByte (s.given (pixelsFor s.xfer g) g) =
      ((s.given (pixelsFor s.xfer (g + 1)) (g + 1)).finishedIfDone,
        BitVec.ofNat 8 (fetchedBits s.xfer (flush s).mem (pixelsFor s.xfer (g + 1)) / 2 ^ (8 * g))) := by
  have hgives : (s.given (pixelsFor s.xfer g) g).xfer.givesByte = true := (givesByte_iff _).2 ⟨hx.mode, hg⟩
  have hbits : fetchedBits s.xfer (flush s).mem (pixelsFor s.xfer (g + 1)) / 2 ^ (8 * g) < 2 ^ 39 :=
    Nat.lt_of_lt_of_le (div_two_pow_lt (fetchedBits_lt hx _ _) _) (Nat.pow_le_pow_right (by decide) (pixelsFor_bits hx g))
  have hbyte : ∀ a, bits (BitVec.ofNat 39 a) 0 8 = BitVec.ofNat 8 a := fun a =>
    BitVec.eq_of_toNat_eq (by simp only [bits, BitVec.extractLsb'_toNat, BitVec.toNat_ofNat, Nat.shiftRight_zero]; omega)
  have hdrop : BitVec.ofNat 39 (fetchedBits s.xfer (flush s).mem (pixelsFor s.xfer (g + 1)) / 2 ^ (8 * g)) >>> 8 =
      BitVec.ofNat 39 (fetchedBits s.xfer (flush s).mem (pixelsFor s.xfer (g + 1)) / 2 ^ (8 * (g + 1))) := by
    rw [pbits_drop _ _ hbits, Nat.div_div_eq_div_mul, ← Nat.pow_add, Nat.mul_succ]
  have hcount : max (s.xfer.pcount + s.xfer.bpp * pixelsFor s.xfer (g + 1) - 8 * g) 8 - 8 =
      s.xfer.pcount + s.xfer.bpp * pixelsFor s.xfer (g + 1) - 8 * (g + 1) := by omega
  have hafter : { (s.given (pixelsFor s.xfer (g + 1)) g).padded.xfer.dropBits 8 with done := s.xfer.done + g + 1 } =
      s.xfer.given (flush s).mem (pixelsFor s.xfer (g + 1)) (g + 1) := by
    rw [Xfer.given, ← hdrop, ← hcount]
    rfl
  rw [readByte, if_pos hgives, fillLoop_given hx (Nat.le_refl _) (pixelsFor_mono hx (Nat.le_succ g)) (by omega)]
  refine Prod.ext ?_ (hbyte _)
  rw [State.finishedIfDone]
  conv_rhs => rw [State.given]
  rw [← hafter]
  rfl

/-! ## A run of bytes -/

/-- Byte j of the Read. -/
def givenByte (s : State) (j : Nat) : Byte :=
  BitVec.ofNat 8 (fetchedBits s.xfer (flush s).mem (pixelsFor s.xfer (j + 1)) / 2 ^ (8 * j))

/-- The bytes that the Read gives, as one. -/
theorem readBytes_given {n g : Nat} (hn : s.xfer.done + g + n ≤ s.xfer.total) :
    readBytes n (s.given (pixelsFor s.xfer g) g).finishedIfDone =
      ((s.given (pixelsFor s.xfer (g + n)) (g + n)).finishedIfDone, (List.range' g n).map (givenByte s)) := by
  induction n generalizing g with
  | zero => rfl
  | succ n ih =>
    have hrun : (s.given (pixelsFor s.xfer g) g).finishedIfDone = s.given (pixelsFor s.xfer g) g :=
      finishedIfDone_of_not_done (show s.xfer.done + g ≠ s.xfer.total by omega)
    rw [hrun, readBytes, readByte_given hx (by omega)]
    dsimp only
    rw [ih (by omega), Nat.add_right_comm, List.range'_succ, List.map_cons, Nat.add_assoc]
    rfl

/-- With no byte given nothing has changed. -/
theorem given_zero : s.given (pixelsFor s.xfer 0) 0 = s := by
  have hnone : pixelsFor s.xfer 0 = 0 := Nat.le_zero.mp ((pixelsFor_le_iff hx 0 0).2 (.inl (Nat.zero_le _)))
  have hxfer : s.xfer.given (flush s).mem 0 0 = s.xfer := by
    have hcursor := atPixel_cursorPixel (hx.ok.armed (by simp [hx.mode])).cx_lt
    simpa [Xfer.given, fetchedBits] using hcursor
  rw [hnone, State.given, hxfer]
  rfl

/-- A byte has the bits of the pixels fetched for it, and zeros past the rectangle; pixels fetched later add nothing. -/
theorem givenByte_eq {j n : Nat} (hj : j < n) :
    givenByte s j = BitVec.ofNat 8 (fetchedBits s.xfer (flush s).mem (pixelsFor s.xfer n) / 2 ^ (8 * j)) := by
  have hle : pixelsFor s.xfer (j + 1) ≤ pixelsFor s.xfer n := pixelsFor_mono hx hj
  refine BitVec.eq_of_toNat_eq ?_
  rw [givenByte, BitVec.toNat_ofNat, BitVec.toNat_ofNat]
  obtain hbits | hroom := (pixelsFor_le_iff hx (j + 1) _).1 (Nat.le_refl _)
  · exact (fetchedBits_field _ hle (by omega)).symm
  · rw [Nat.le_antisymm hle (Nat.le_trans (Nat.min_le_right ..) hroom)]

end

theorem readBytes_add (m n : Nat) (s : State) : readBytes (m + n) s =
    ((readBytes n (readBytes m s).1).1, (readBytes m s).2 ++ (readBytes n (readBytes m s).1).2) := by
  induction m generalizing s with
  | zero => rw [Nat.zero_add]; rfl
  | succ m ih => rw [Nat.succ_add, readBytes, ih]; rfl

/-- The bytes that a Read gives of the next n, and the surplus ones. -/
theorem readBytes_armed {s : State} (hx : ReadArmed s.xfer) (n : Nat) :
    ∃ free : List Byte, free.length = n - givenBytes s.xfer n ∧
      readBytes n s = ({ s.given (fetched s.xfer n) (givenBytes s.xfer n) with
          xfer := xferAfterRead s.xfer n (flush s).mem
          freeCount := (drawnFor (fetched s.xfer n) s).freeCount + (n - givenBytes s.xfer n) },
        givenData s.xfer n (flush s).mem ++ free) := by
  have hmore := hx.more
  have hsplit : givenBytes s.xfer n + (n - givenBytes s.xfer n) = n := by unfold givenBytes; omega
  have hall : s.xfer.done + 0 + givenBytes s.xfer n ≤ s.xfer.total := by unfold givenBytes; omega
  have hgiven := readBytes_given hx hall
  rw [given_zero hx, finishedIfDone_of_not_done (Nat.ne_of_lt hmore), Nat.zero_add] at hgiven
  have hdata : (List.range' 0 (givenBytes s.xfer n)).map (givenByte s) = givenData s.xfer n (flush s).mem := by
    rw [← List.range_eq_range', givenData]
    exact List.map_congr_left fun j hj => givenByte_eq hx (List.mem_range.mp hj)
  have hxfer : (s.given (fetched s.xfer n) (givenBytes s.xfer n)).xfer.finishIfDone = xferAfterRead s.xfer n (flush s).mem := by
    unfold xferAfterRead
    by_cases hend : s.xfer.done + givenBytes s.xfer n = s.xfer.total
    · rw [if_pos hend, finishIfDone_of_done hend]; rfl
    · rw [if_neg hend, finishIfDone_of_not_done hend]; rfl
  have hsurplus : ∀ k, n - givenBytes s.xfer n = k →
      (readBytes k (s.given (fetched s.xfer n) (givenBytes s.xfer n)).finishedIfDone).1 =
        { (s.given (fetched s.xfer n) (givenBytes s.xfer n)).finishedIfDone with
          freeCount := (drawnFor (fetched s.xfer n) s).freeCount + k } := by
    intro k hk
    cases k with
    | zero => rfl
    | succ k =>
      have hend : s.xfer.done + givenBytes s.xfer n = s.xfer.total := by unfold givenBytes at *; omega
      refine readBytes_surplus ((givesByte_eq_false_iff _).2 (.inl ?_)) _
      rw [State.finishedIfDone, finishIfDone_of_done hend]
      exact nofun
  have hrun := readBytes_add (givenBytes s.xfer n) (n - givenBytes s.xfer n) s
  rw [hsplit, hgiven, hdata] at hrun
  refine ⟨_, readBytes_length _ _, hrun.trans (Prod.ext ((hsurplus _ rfl).trans ?_) rfl)⟩
  rw [← hxfer]
  rfl

theorem flush_withCalls (s : State) (cs : List HostCall) : flush { s with calls := cs } = { flush s with calls := cs } := by
  have hite := apply_ite (fun t : State => { t with calls := cs }) (s.pending = true) (drawPending s) s
  exact hite.symm

/-- Where no pixel is fetched the bits do not depend on memory. -/
theorem bitsOf_of_none {x : Xfer} {n : Nat} (h : ¬ 0 < fetched x n) (m m' : Memory) : bitsOf x n m = bitsOf x n m' := by
  rw [bitsOf, bitsOf, Nat.eq_zero_of_not_pos h]
  rfl

/-- Settles O46: the bytes given, and after them the surplus. -/
theorem readFifoDeliversPixels : Obligations.ReadFifoDeliversPixels := by
  intro s n rest h hx f surplus
  obtain ⟨free, hlength, hrun⟩ := readBytes_armed (s := { s with calls := rest }) hx (16 * n)
  refine ⟨free, hlength, ?_⟩
  rw [step_of_call h, hostCall, readFIFO, hrun]
  simp only [flush_withCalls, State.given, drawnFor]
  by_cases hf : 0 < fetched s.xfer (16 * n)
  · have hflush : f = flush s := if_pos hf
    rw [hflush, if_pos hf, flush_withCalls]
    rfl
  · have hsame : f = s := if_neg hf
    have hdata : givenData s.xfer (16 * n) (flush s).mem = givenData s.xfer (16 * n) s.mem := by
      rw [givenData, givenData, bitsOf_of_none hf]
    have hxfer : xferAfterRead s.xfer (16 * n) (flush s).mem = xferAfterRead s.xfer (16 * n) s.mem := by
      rw [xferAfterRead, xferAfterRead, bitsOf_of_none hf]
    rw [hsame, if_neg hf, hdata, hxfer]
    rfl

end Sys2Proof.Machine
end

section
/-! PROOFS. Nothing faults in itself (60_exceptions R403): every unit decodes to a well-formed instruction, without loss where the format
has no ignored bits, and every instruction answers a next state. -/

namespace Sys2Proof

/-! ## Every unit decodes (30_encoding R110, R116 to R118, R141) -/

theorem decodeTag_wellFormed (q : Qword) : (decodeTag q).wellFormed = true := by
  unfold decodeTag
  split <;> rfl

/-- The address map has a row for every address that R141 does not list. -/
theorem decodeAd_isSome (v : Word64) : ∀ addr : BitVec 7, (decodeAd addr v).isSome = !unassignedAddr addr := of_decide_eq_true rfl

theorem wellFormed_of_decodeAd {addr : BitVec 7} {v : Word64} {i : Instr} (h : decodeAd addr v = some i) : i.wellFormed = true := by
  unfold decodeAd at h
  split at h <;> cases h <;> rfl

theorem decodeAdSlot_wellFormed (addr : BitVec 7) (v : Word64) : (decodeAdSlot addr v).wellFormed = true := by
  rw [decodeAdSlot]
  cases h : decodeAd addr v with
  | none =>
    have hreserved := decodeAd_isSome v addr
    rw [h] at hreserved
    simpa [Instr.wellFormed] using hreserved
  | some i => exact wellFormed_of_decodeAd h

theorem decodePacked_wellFormed (d : BitVec 4) (q : Qword) : (decodePacked d q).wellFormed = true := by
  unfold decodePacked
  split
  case h_15 => exact decodeAdSlot_wellFormed _ _
  all_goals rfl

theorem decodeReglist_wellFormed (d : BitVec 4) (v : Word64) : (decodeReglist d v).wellFormed = true := by
  unfold decodeReglist
  split <;> rfl

theorem decode_wellFormed : ∀ u : StreamUnit, (decode u).wellFormed = true
  | ⟨.tag, q⟩ => decodeTag_wellFormed q
  | ⟨.packed d, q⟩ => decodePacked_wellFormed d q
  | ⟨.reglist d, q⟩ => decodeReglist_wellFormed d (bits q 0 64)
  | ⟨.image, _⟩ => rfl
  | ⟨.image2, _⟩ => rfl

/-! ## What is encoded again -/

theorem flg_cases : ∀ f : BitVec 2, f = 0#2 ∨ f = 1#2 ∨ f = 2#2 ∨ f = 3#2 := by decide

/-- The row of a tag keeps its FLG, and the operands its other fields, the ignored ones among them. -/
theorem encode_decodeTag (q : Qword) : encode (decodeTag q) = ⟨.tag, q⟩ := by
  have hfields : encode (decodeTag q) = ⟨.tag, encodeTag (tagFlg q) (tagFields q)⟩ := by
    unfold decodeTag
    obtain h | h | h | h := flg_cases (tagFlg q)
    all_goals rw [h]; rfl
  rw [hfields, Machine.encodeTag_tagFields]

/-- Each descriptor has a REGLIST row of its own, whose operand is the whole value. -/
theorem encode_decodeReglist (d : BitVec 4) (v : Word64) : encode (decodeReglist d v) = reglistUnit d v := by
  unfold decodeReglist
  split
  case h_16 =>
    have hd : d = 0xF#4 := by
      revert d
      decide
    rw [hd]
    rfl
  all_goals rfl

/-- Settles O2: the rows are total, and a tag, an IMAGE qword and a REGLIST value are operands with all their bits. -/
theorem everyUnitDecodes : Obligations.EveryUnitDecodes := by
  refine ⟨decode_wellFormed, encode_decodeTag, fun q => ⟨rfl, rfl⟩, fun d v => ?_⟩
  rw [decode_reglistUnit, encode_decodeReglist]

end Sys2Proof

namespace Sys2Proof.Machine

/-! ## Every instruction answers a next state (60_exceptions R401, R403) -/

theorem exec_answersNext (i : Instr) (s : State) : ∃ t, exec i s = .next t := by
  obtain ⟨t, ht, -⟩ := exec_effect i s
  exact ⟨t, ht⟩

theorem unitStep_answersNext (s : State) (q : Qword) : ∃ t, unitStep s q = .next t := by
  obtain ⟨t, ht⟩ := exec_answersNext (decode (fetchUnit s q)) s
  exact ⟨finishUnit (unitCtx s) t, by rw [unitStep, ht]⟩

theorem callStep_answersNext (s : State) : ∃ t, callStep s = .next t := by
  unfold callStep
  split
  · exact ⟨_, rfl⟩
  · exact ⟨s, rfl⟩

theorem step_of_noUnit {s : State} (hs : s.stuck = false) (hq : s.feed.qwords = []) : step s = callStep s := by
  simp [step, hs, hq]

theorem step_answersNext_of_running {s : State} (hs : s.stuck = false) : ∃ t, step s = .next t := by
  cases hq : s.feed.qwords with
  | nil => rw [step_of_noUnit hs hq]; exact callStep_answersNext s
  | cons q rest => rw [step_of_unit ⟨hs, hq⟩]; exact unitStep_answersNext s q

theorem step_answersNext_of_call {s : State} (hc : s.calls ≠ []) : ∃ t, step s = .next t := by
  cases hs : s.stuck with
  | false => exact step_answersNext_of_running hs
  | true =>
    obtain ⟨c, rest, hcons⟩ := List.exists_cons_of_ne_nil hc
    exact ⟨_, (step_of_stuck hs).trans (stuckStep_call hcons)⟩

/-- Settles O12: an instruction has one of the effects, and only a stuck block with no call to take has nothing to do. -/
theorem everyInstructionAnswersNext : Obligations.EveryInstructionAnswersNext :=
  ⟨exec_answersNext, fun _ h => h.elim step_answersNext_of_running step_answersNext_of_call⟩

end Sys2Proof.Machine
end

section
/-! PROOFS. Reset and host calls (70_reset_and_hazards R432, R433, R452): a flush request, a reconfiguration, and save-states. -/

namespace Sys2Proof.Machine

/-! ## Flush requests and reconfiguration (70_reset_and_hazards R432, R452) -/

/-- A second flush finds nothing pending (43_flush_draw R340). -/
theorem flush_idem (s : State) : flush (flush s) = flush s := flush_of_not_pending (flush_not_pending s)

theorem pending_eq_false_iff (s : State) : s.pending = false ↔ s.vq.ibuf = [] := by simp [State.pending]

/-- Settles O38: the call is one flush, and only a pending index makes a flush draw. -/
theorem flushRequestDrawsOnce : Obligations.FlushRequestDrawsOnce :=
  ⟨fun _ _ h => step_of_call h, fun s h => flush_of_not_pending ((pending_eq_false_iff s).2 h), flush_idem⟩

/-- Settles O52: the call is taken, and sets the three inputs. -/
theorem reconfigureSetsInputs : Obligations.ReconfigureSetsInputs := fun _ _ _ _ _ h => step_of_call h

/-! ## Save-states (70_reset_and_hazards R433) -/

theorem restore_imageOf_path (s u : State) (p : PathId) : (restore (imageOf s) u).path p = s.path p := by
  cases p <;> rfl

theorem restore_imageOf_ctx (s u : State) (c : CtxId) : (restore (imageOf s) u).ctx c = s.ctx c := by
  cases c <;> rfl

/-- Defrost restores a frozen image that the block can be in. -/
theorem defrost_frozen {b : Image} {s : State} (h : b.Ok s.cfg) : defrost (frozen b) s = restore b s := by
  rw [defrost, thawed_frozen h]

/-- What Freeze saves of a safe state is in range. -/
theorem State.Safe.image_ok {s : State} (h : s.Safe) : (imageOf s).Ok s.cfg where
  reserved := h.reserved
  cursors := h.queue.cursors
  between := h.queue.between (State.fault_of_running h.running)
  fits := h.queue.fits
  win := h.win
  xfer := h.xfer

/-- The path part of a format, as a function of the list of the four paths; a blob holds it of no other list. -/
def SnapshotFormat.pathList (f : SnapshotFormat) : List PathState → Blob
  | [a, b, c, d] => f.paths a b c d
  | _ => []

/-- The bytes of an image, part after part. -/
theorem SnapshotFormat.write_eq (f : SnapshotFormat) (b : Image) : f.write b =
    f.version ++ f.pathList [b.path0, b.path1, b.path2, b.path3] ++ f.registers b.env b.ctx0 b.ctx1 ++ f.contexts b.ctx0 b.ctx1 ++
      f.env b.env ++ f.vertex b.vacc b.qint ++ f.pending b.vq b.win ++ f.transfer b.xfer := by
  simp only [SnapshotFormat.write, SnapshotFormat.pathList, List.append_assoc]

/-- Settles O51: each call is its own host call; the format reads back what it wrote, and what it reads is checked before it is restored. -/
theorem freezeDefrostRoundTrip : Obligations.FreezeDefrostRoundTrip := by
  refine ⟨fun s rest h => ⟨step_of_call h, fun u more hu hok => ?_⟩, fun s h => h.image_ok, ?_,
    fun u blob more hu => ⟨step_of_call hu, fun _ => thawed_ok⟩⟩
  · have hstep : step u = .next (restore (imageOf s) { u with calls := more }) :=
      (step_of_call hu).trans (congrArg _ (defrost_frozen hok))
    exact ⟨_, hstep, restore_imageOf_path s _, rfl, restore_imageOf_ctx s _, rfl, rfl, rfl, rfl, rfl, rfl, rfl, rfl, rfl⟩
  · let f := Config.snapshotFormat
    exact ⟨f.version, f.pathList, f.registers, f.contexts, f.env, f.vertex, f.pending, f.transfer, fun s => f.write_eq (imageOf s)⟩

end Sys2Proof.Machine
end
